-- ==== Sys2Proof/Word.lean ====
section
/-! DEFINITION. The word types of CORE. Every value is an unsigned integer of a stated width
(spec 00_scope.md R9): 4-bit fields, 8-bit bytes and registers, 12-bit addresses in instructions,
16-bit pc, I, stack entries and instruction words. -/

namespace Sys2Proof

/-- A 4-bit field of an instruction word: x, y or n (R72). -/
abbrev Nibble := BitVec 4

/-- An 8-bit byte: a memory byte, a general register, a timer, the field kk (R9). -/
abbrev Byte := BitVec 8

/-- A 12-bit address as an instruction carries it, the field nnn (R72). -/
abbrev Addr := BitVec 12

/-- A 16-bit word: an instruction word, pc, I, a stack entry (R9). -/
abbrev Word := BitVec 16

end Sys2Proof
end

