-- ==== Sys2Proof/Config.lean ====
section
/-! DEFINITION. What an implementation of CORE fixes (spec 00_scope.md R8), the agents' turns, and the two
free values the spec leaves open. The parameters are the fields of `Config`; the sizes are constants. The
defaults the spec takes for this hardware are in Sys2Proof/Machine/Defaults.lean. -/

namespace Sys2Proof

/-- `VF_ORDER` (R8, R130): which write of a flag-writing ALU instruction comes last. -/
inductive VfOrder where
  /-- Vx is written, then VF: x = 0xF ends with VF = flag (the default). -/
  | flagLast
  /-- VF is written first and the operands are read again before Vx is written. -/
  | flagFirst
  deriving DecidableEq, Repr

/-- `SHIFT_SOURCE` (R8, R139, R141): which register SHR and SHL shift. -/
inductive ShiftSource where
  /-- Vx is shifted (the default). -/
  | x
  /-- Vy is shifted. -/
  | y
  deriving DecidableEq, Repr

/-- `NO_KEY` (R8, R221): the sentinel LowestKey gives when no key is pressed. -/
inductive NoKey where
  /-- A value equal to no byte (the default). -/
  | noByte
  /-- A byte value, 16..255, that a register can equal. -/
  | byte (b : Byte)
  deriving DecidableEq, Repr

/-- `KEY_WAIT_MODE` (R8, R225, R227): what LD Vx,K does. -/
inductive KeyWaitMode where
  /-- Hold until a key is pressed (the default). -/
  | block
  /-- Complete at once with a drawn byte. -/
  | stub
  deriving DecidableEq, Repr

/-- The parameters of R8 that select a behaviour. -/
structure Config where
  /-- `VF_ORDER`. -/
  vfOrder : VfOrder
  /-- `SHIFT_SOURCE`. -/
  shiftSource : ShiftSource
  /-- `NO_KEY`. -/
  noKey : NoKey
  /-- `KEY_WAIT_MODE`. -/
  keyWait : KeyWaitMode
  /-- `STRICT_5_9` (R80): whether 5xyN and 9xyN with N ≠ 0 are Unknown. -/
  strict59 : Bool
  deriving DecidableEq, Repr

/-- The legal values of the parameters (R8, R221): a byte value of NO_KEY lies in 16..255, so it is no
key's index. -/
abbrev Config.Legal (c : Config) : Prop :=
  match c.noKey with
  | .noByte => True
  | .byte b => 16 ≤ b.toNat

/-- FREE VALUE (R145 `RandomByte`, R227 the stub's byte; log entry 3): the byte of the k-th draw. It has
no body, so no proof can see what it is: what is proved holds for every sequence of draws. -/
opaque Config.draw : Nat → Byte

/-- The host's calls that change state (R273, R275, R276). The key index is a `Fin 16`: the model has no
step for an index outside 0..15 (R273, log entry 14). -/
inductive HostCall where
  /-- `load(bytes)` (R293). -/
  | load (image : List Byte)
  /-- `start()` (R295). -/
  | start
  /-- `stop()` (R296). -/
  | stop
  /-- `dispose()` (R297). -/
  | dispose
  /-- `setKey(index, pressed)` (R273). -/
  | setKey (key : Fin 16) (pressed : Bool)
  deriving DecidableEq, Repr, Inhabited

/-- One agent's next step in an interleaving (R270). -/
inductive AgentEvent where
  /-- The core agent steps (R271). -/
  | core
  /-- The timer agent steps: one tick (R272). -/
  | tick
  /-- The host makes a call. -/
  | host (call : HostCall)
  deriving DecidableEq, Repr, Inhabited

/-- FREE VALUE (R238, R270; log entry 2): the agent of the k-th free turn, the host's call and its arguments
too. It has no body, so what is proved holds for every endless interleaving of the three agents. -/
opaque Config.turn : Nat → AgentEvent

/-- `MEM_SIZE` (R8): the number of memory bytes; every address is reduced modulo it (R52, R53). -/
abbrev memSize : Nat := 4096

/-- `PROGRAM_BASE` (R8): where `load` copies the image and where execution starts. -/
abbrev programBase : Nat := 0x200

end Sys2Proof
end

