-- ==== Sys2Proof/Syntax.lean ====
section
/-! DEFINITION. The instructions of CORE: one constructor for each of the 34 forms of spec
30_encoding.md R75 (the rows of spec/opcode_table.json, in its order). -/

namespace Sys2Proof

/-- An instruction. Operands are the fields of the word (R72, R74): x and y name general registers,
kk, nnn and n are unsigned immediates. `low` of `seReg` and `sneReg` is the low nibble of a 5xyN or 9xyN
word, which selects nothing and has no effect (R80); it is kept so that no bit of a word is lost. -/
inductive Instr where
  /-- 00E0, clear screen (R190). -/
  | cls
  /-- 00EE, return (R101). -/
  | ret
  /-- 1nnn, jump (R103). -/
  | jp (nnn : Addr)
  /-- 2nnn, call (R102). -/
  | call (nnn : Addr)
  /-- 3xkk, skip if Vx = kk (R104). -/
  | seImm (x : Nibble) (kk : Byte)
  /-- 4xkk, skip if Vx ≠ kk (R105). -/
  | sneImm (x : Nibble) (kk : Byte)
  /-- 5xyN, skip if Vx = Vy (R106). -/
  | seReg (x y low : Nibble)
  /-- 6xkk, load immediate (R131). -/
  | ldImm (x : Nibble) (kk : Byte)
  /-- 7xkk, add immediate (R132). -/
  | addImm (x : Nibble) (kk : Byte)
  /-- 8xy0, copy (R133). -/
  | ldReg (x y : Nibble)
  /-- 8xy1, OR (R134). -/
  | orReg (x y : Nibble)
  /-- 8xy2, AND (R135). -/
  | andReg (x y : Nibble)
  /-- 8xy3, XOR (R136). -/
  | xorReg (x y : Nibble)
  /-- 8xy4, add with carry flag (R137). -/
  | addReg (x y : Nibble)
  /-- 8xy5, Vx − Vy with borrow flag (R138). -/
  | sub (x y : Nibble)
  /-- 8xy6, shift right (R139). -/
  | shr (x y : Nibble)
  /-- 8xy7, Vy − Vx with borrow flag (R140). -/
  | subn (x y : Nibble)
  /-- 8xyE, shift left (R141). -/
  | shl (x y : Nibble)
  /-- 9xyN, skip if Vx ≠ Vy (R107). -/
  | sneReg (x y low : Nibble)
  /-- Annn, set index (R160). -/
  | ldI (nnn : Addr)
  /-- Bnnn, jump to nnn + V0 (R108). -/
  | jpV0 (nnn : Addr)
  /-- Cxkk, random byte AND kk (R145). -/
  | rnd (x : Nibble) (kk : Byte)
  /-- Dxyn, draw sprite (R191). -/
  | drw (x y n : Nibble)
  /-- Ex9E, skip if Vx = LowestKey (R222). -/
  | skp (x : Nibble)
  /-- ExA1, skip if Vx ≠ LowestKey (R223). -/
  | sknp (x : Nibble)
  /-- Fx07, Vx from the delay timer (R230). -/
  | ldVxDT (x : Nibble)
  /-- Fx0A, wait for a key (R225). -/
  | ldVxK (x : Nibble)
  /-- Fx15, delay timer from Vx (R231). -/
  | ldDTVx (x : Nibble)
  /-- Fx18, sound timer from Vx (R232). -/
  | ldSTVx (x : Nibble)
  /-- Fx1E, add Vx to I (R161). -/
  | addI (x : Nibble)
  /-- Fx29, I to the glyph of Vx's low nibble (R162). -/
  | ldF (x : Nibble)
  /-- Fx33, store the BCD digits of Vx (R163). -/
  | ldB (x : Nibble)
  /-- Fx55, store V0..V(x−1) from I on (R164). -/
  | ldStore (x : Nibble)
  /-- Fx65, load V0..V(x−1) from I on (R165). -/
  | ldLoad (x : Nibble)
  deriving DecidableEq, Repr

end Sys2Proof
end

