-- ==== Sys2Proof/WellFormed.lean ====
section
/-! DEFINITION. Which instructions exist. The operand widths are in the types (R72), so the only checks
left are those of STRICT_5_9 on the low nibble of 5xyN and 9xyN (spec 30_encoding.md R80). -/

namespace Sys2Proof

/-- The low nibble a register skip may carry: any, or only 0 under `STRICT_5_9` (R80). -/
def lowNibbleOk (strict : Bool) (low : Nibble) : Bool := !strict || low == 0

/-- Whether an instruction is one the decoder can give, under the parameter `STRICT_5_9 = strict`. -/
def Instr.wellFormed (strict : Bool) : Instr → Bool
  | .seReg _ _ low => lowNibbleOk strict low
  | .sneReg _ _ low => lowNibbleOk strict low
  | .cls | .ret | .jp _ | .call _ | .seImm _ _ | .sneImm _ _ | .ldImm _ _ | .addImm _ _ => true
  | .ldReg _ _ | .orReg _ _ | .andReg _ _ | .xorReg _ _ | .addReg _ _ | .sub _ _ | .shr _ _ => true
  | .subn _ _ | .shl _ _ | .ldI _ | .jpV0 _ | .rnd _ _ | .drw _ _ _ | .skp _ | .sknp _ => true
  | .ldVxDT _ | .ldVxK _ | .ldDTVx _ | .ldSTVx _ | .addI _ | .ldF _ | .ldB _ => true
  | .ldStore _ | .ldLoad _ => true

end Sys2Proof
end

