-- ==== Sys2Proof/Decode.lean ====
section
/-! DEFINITION. Decoding and encoding: the fields of a word (spec 30_encoding.md R72), the layered
decoder of R76 with its Unknown class (R77), decoding of bytes in memory order (R55), and the encoder,
written from the bit patterns of R75. -/

namespace Sys2Proof

/-- op = w[15:12], "the top nibble" (R72). -/
def opField (w : Word) : Nibble := w.extractLsb' 12 4

/-- x = w[11:8] (R72). -/
def xField (w : Word) : Nibble := w.extractLsb' 8 4

/-- y = w[7:4] (R72). -/
def yField (w : Word) : Nibble := w.extractLsb' 4 4

/-- n = w[3:0] (R72). -/
def nField (w : Word) : Nibble := w.extractLsb' 0 4

/-- kk = w[7:0] (R72). -/
def kkField (w : Word) : Byte := w.extractLsb' 0 8

/-- nnn = w[11:0] (R72). -/
def nnnField (w : Word) : Addr := w.extractLsb' 0 12

/-- Why bytes do not decode. -/
inductive DecodeError where
  /-- The word matches no documented form: the class Unknown (R77). The word is carried, since the
  fault "must report the offending 16-bit value" (R255). -/
  | unknown (w : Word)
  /-- Fewer than two bytes were given; the machine's own fetch always gives two (R70). -/
  | truncated
  deriving DecidableEq, Repr

/-- Top nibble 0: only 00E0 and 00EE are instructions (R76, R79). -/
def decode0 (w : Word) : Except DecodeError Instr :=
  if w = 0x00E0#16 then .ok .cls
  else if w = 0x00EE#16 then .ok .ret
  else .error (.unknown w)

/-- Top nibbles 5 and 9: the low nibble selects nothing, but `STRICT_5_9` admits only 0 (R76, R80). -/
def decode59 (strict : Bool) (w : Word) (i : Instr) : Except DecodeError Instr :=
  if lowNibbleOk strict (nField w) then .ok i else .error (.unknown w)

/-- Top nibble 8: the low nibble selects; the unmatched ones are Unknown, "not a sibling" (R76, R77). -/
def decode8 (w : Word) : Except DecodeError Instr :=
  match nField w with
  | 0x0#4 => .ok (.ldReg (xField w) (yField w))
  | 0x1#4 => .ok (.orReg (xField w) (yField w))
  | 0x2#4 => .ok (.andReg (xField w) (yField w))
  | 0x3#4 => .ok (.xorReg (xField w) (yField w))
  | 0x4#4 => .ok (.addReg (xField w) (yField w))
  | 0x5#4 => .ok (.sub (xField w) (yField w))
  | 0x6#4 => .ok (.shr (xField w) (yField w))
  | 0x7#4 => .ok (.subn (xField w) (yField w))
  | 0xE#4 => .ok (.shl (xField w) (yField w))
  | _ => .error (.unknown w)

/-- Top nibble E: the low byte selects (R76). -/
def decodeE (w : Word) : Except DecodeError Instr :=
  match kkField w with
  | 0x9E#8 => .ok (.skp (xField w))
  | 0xA1#8 => .ok (.sknp (xField w))
  | _ => .error (.unknown w)

/-- Top nibble F: the low byte selects (R76). -/
def decodeF (w : Word) : Except DecodeError Instr :=
  match kkField w with
  | 0x07#8 => .ok (.ldVxDT (xField w))
  | 0x0A#8 => .ok (.ldVxK (xField w))
  | 0x15#8 => .ok (.ldDTVx (xField w))
  | 0x18#8 => .ok (.ldSTVx (xField w))
  | 0x1E#8 => .ok (.addI (xField w))
  | 0x29#8 => .ok (.ldF (xField w))
  | 0x33#8 => .ok (.ldB (xField w))
  | 0x55#8 => .ok (.ldStore (xField w))
  | 0x65#8 => .ok (.ldLoad (xField w))
  | _ => .error (.unknown w)

/-- The decoder of R76 on one word, under the parameter `STRICT_5_9 = strict`. The arm 0xF stands last
and is the only nibble left there; no word falls to another family's handler. -/
def decodeWord (strict : Bool) (w : Word) : Except DecodeError Instr :=
  match opField w with
  | 0x0#4 => decode0 w
  | 0x1#4 => .ok (.jp (nnnField w))
  | 0x2#4 => .ok (.call (nnnField w))
  | 0x3#4 => .ok (.seImm (xField w) (kkField w))
  | 0x4#4 => .ok (.sneImm (xField w) (kkField w))
  | 0x5#4 => decode59 strict w (.seReg (xField w) (yField w) (nField w))
  | 0x6#4 => .ok (.ldImm (xField w) (kkField w))
  | 0x7#4 => .ok (.addImm (xField w) (kkField w))
  | 0x8#4 => decode8 w
  | 0x9#4 => decode59 strict w (.sneReg (xField w) (yField w) (nField w))
  | 0xA#4 => .ok (.ldI (nnnField w))
  | 0xB#4 => .ok (.jpV0 (nnnField w))
  | 0xC#4 => .ok (.rnd (xField w) (kkField w))
  | 0xD#4 => .ok (.drw (xField w) (yField w) (nField w))
  | 0xE#4 => decodeE w
  | 0xF#4 => decodeF w
  | _ => .error (.unknown w)

/-- The byte at the lower address is bits 15..8 of the word (R55). -/
def wordOfBytes (hi lo : Byte) : Word := hi ++ lo

/-- The byte of a word that lies at the lower address (R55). -/
def hiByte (w : Word) : Byte := w.extractLsb' 8 8

/-- The byte of a word that lies at the higher address (R55). -/
def loByte (w : Word) : Byte := w.extractLsb' 0 8

/-- Decoding at the front of a byte sequence: the instruction and the bytes after it. Every instruction
is 2 bytes long (R71). -/
def decodeBytes (strict : Bool) : List Byte → Except DecodeError (Instr × List Byte)
  | hi :: lo :: rest =>
    match decodeWord strict (wordOfBytes hi lo) with
    | .ok i => .ok (i, rest)
    | .error e => .error e
  | _ => .error .truncated

/-- The host's view of the decoder: a word of the opcode table, its bits above `nbits` zero, laid out as
the hardware stores it (R55) and decoded with the default `STRICT_5_9 = false`. -/
def decodeTableWord (nbits w : Nat) : Option Instr :=
  let word : Word := BitVec.ofNat 16 (w % 2 ^ nbits)
  match decodeBytes false [hiByte word, loByte word] with
  | .ok (i, _) => some i
  | .error _ => none

/-- A word of shape op nnn (R74). -/
def wordNNN (op : Nibble) (nnn : Addr) : Word := op ++ nnn

/-- A word of shape op x kk (R74). -/
def wordXKK (op x : Nibble) (kk : Byte) : Word := (op ++ x) ++ kk

/-- A word of shape op x y n (R74). -/
def wordXYN (op x y n : Nibble) : Word := (op ++ x) ++ (y ++ n)

/-- The word of an instruction: the pattern column of R75. -/
def encode : Instr → Word
  | .cls => 0x00E0#16
  | .ret => 0x00EE#16
  | .jp nnn => wordNNN 0x1 nnn
  | .call nnn => wordNNN 0x2 nnn
  | .seImm x kk => wordXKK 0x3 x kk
  | .sneImm x kk => wordXKK 0x4 x kk
  | .seReg x y low => wordXYN 0x5 x y low
  | .ldImm x kk => wordXKK 0x6 x kk
  | .addImm x kk => wordXKK 0x7 x kk
  | .ldReg x y => wordXYN 0x8 x y 0x0
  | .orReg x y => wordXYN 0x8 x y 0x1
  | .andReg x y => wordXYN 0x8 x y 0x2
  | .xorReg x y => wordXYN 0x8 x y 0x3
  | .addReg x y => wordXYN 0x8 x y 0x4
  | .sub x y => wordXYN 0x8 x y 0x5
  | .shr x y => wordXYN 0x8 x y 0x6
  | .subn x y => wordXYN 0x8 x y 0x7
  | .shl x y => wordXYN 0x8 x y 0xE
  | .sneReg x y low => wordXYN 0x9 x y low
  | .ldI nnn => wordNNN 0xA nnn
  | .jpV0 nnn => wordNNN 0xB nnn
  | .rnd x kk => wordXKK 0xC x kk
  | .drw x y n => wordXYN 0xD x y n
  | .skp x => wordXKK 0xE x 0x9E
  | .sknp x => wordXKK 0xE x 0xA1
  | .ldVxDT x => wordXKK 0xF x 0x07
  | .ldVxK x => wordXKK 0xF x 0x0A
  | .ldDTVx x => wordXKK 0xF x 0x15
  | .ldSTVx x => wordXKK 0xF x 0x18
  | .addI x => wordXKK 0xF x 0x1E
  | .ldF x => wordXKK 0xF x 0x29
  | .ldB x => wordXKK 0xF x 0x33
  | .ldStore x => wordXKK 0xF x 0x55
  | .ldLoad x => wordXKK 0xF x 0x65

/-- An instruction's bytes in memory order (R55). -/
def encodeBytes (i : Instr) : List Byte := [hiByte (encode i), loByte (encode i)]

/-- The row of spec/opcode_table.json an instruction belongs to: the bits the row fixes (`mask`) and
their values (`fixed`), with `STRICT_5_9 = false`. -/
structure TableRow where
  /-- The bits the row fixes. -/
  mask : Word
  /-- Their values: the row's "match". -/
  fixed : Word
  deriving DecidableEq, Repr

/-- The mask and match columns of spec/opcode_table.json, row by row. -/
def tableRow : Instr → TableRow
  | .cls => ⟨0xFFFF, 0x00E0⟩
  | .ret => ⟨0xFFFF, 0x00EE⟩
  | .jp _ => ⟨0xF000, 0x1000⟩
  | .call _ => ⟨0xF000, 0x2000⟩
  | .seImm _ _ => ⟨0xF000, 0x3000⟩
  | .sneImm _ _ => ⟨0xF000, 0x4000⟩
  | .seReg _ _ _ => ⟨0xF000, 0x5000⟩
  | .ldImm _ _ => ⟨0xF000, 0x6000⟩
  | .addImm _ _ => ⟨0xF000, 0x7000⟩
  | .ldReg _ _ => ⟨0xF00F, 0x8000⟩
  | .orReg _ _ => ⟨0xF00F, 0x8001⟩
  | .andReg _ _ => ⟨0xF00F, 0x8002⟩
  | .xorReg _ _ => ⟨0xF00F, 0x8003⟩
  | .addReg _ _ => ⟨0xF00F, 0x8004⟩
  | .sub _ _ => ⟨0xF00F, 0x8005⟩
  | .shr _ _ => ⟨0xF00F, 0x8006⟩
  | .subn _ _ => ⟨0xF00F, 0x8007⟩
  | .shl _ _ => ⟨0xF00F, 0x800E⟩
  | .sneReg _ _ _ => ⟨0xF000, 0x9000⟩
  | .ldI _ => ⟨0xF000, 0xA000⟩
  | .jpV0 _ => ⟨0xF000, 0xB000⟩
  | .rnd _ _ => ⟨0xF000, 0xC000⟩
  | .drw _ _ _ => ⟨0xF000, 0xD000⟩
  | .skp _ => ⟨0xF0FF, 0xE09E⟩
  | .sknp _ => ⟨0xF0FF, 0xE0A1⟩
  | .ldVxDT _ => ⟨0xF0FF, 0xF007⟩
  | .ldVxK _ => ⟨0xF0FF, 0xF00A⟩
  | .ldDTVx _ => ⟨0xF0FF, 0xF015⟩
  | .ldSTVx _ => ⟨0xF0FF, 0xF018⟩
  | .addI _ => ⟨0xF0FF, 0xF01E⟩
  | .ldF _ => ⟨0xF0FF, 0xF029⟩
  | .ldB _ => ⟨0xF0FF, 0xF033⟩
  | .ldStore _ => ⟨0xF0FF, 0xF055⟩
  | .ldLoad _ => ⟨0xF0FF, 0xF065⟩

end Sys2Proof
end

