-- ==== Sys2Proof/Machine/Defaults.lean ====
section
/-! DEFINITION. The values this hardware takes for the parameters of spec 00_scope.md R8: the defaults of
the behavioural parameters and the glyph table of 43_display.md R199. -/

namespace Sys2Proof.Machine

/-- The defaults of R8: VF_ORDER = flag_last (D9), SHIFT_SOURCE = x (D11), NO_KEY = none (D12),
KEY_WAIT_MODE = block (D13), STRICT_5_9 = false (D3). -/
def defaultConfig : Config where
  vfOrder := .flagLast
  shiftSource := .x
  noKey := .noByte
  keyWait := .block
  strict59 := false

/-- `GLYPH_TABLE`: the 80 bytes at 0x000..0x04F after reset, 5 for each digit 0..F (R198, R199; D15). -/
def glyphTable : List Byte :=
  [0xF0, 0x90, 0x90, 0x90, 0xF0] ++ [0x20, 0x60, 0x20, 0x20, 0x70] ++
  [0xF0, 0x10, 0xF0, 0x80, 0xF0] ++ [0xF0, 0x10, 0xF0, 0x10, 0xF0] ++
  [0x90, 0x90, 0xF0, 0x10, 0x10] ++ [0xF0, 0x80, 0xF0, 0x10, 0xF0] ++
  [0xF0, 0x80, 0xF0, 0x90, 0xF0] ++ [0xF0, 0x10, 0x20, 0x40, 0x40] ++
  [0xF0, 0x90, 0xF0, 0x90, 0xF0] ++ [0xF0, 0x90, 0xF0, 0x10, 0xF0] ++
  [0xF0, 0x90, 0xF0, 0x90, 0x90] ++ [0xE0, 0x90, 0xE0, 0x90, 0xE0] ++
  [0xF0, 0x80, 0x80, 0x80, 0xF0] ++ [0xE0, 0x90, 0x90, 0x90, 0xE0] ++
  [0xF0, 0x80, 0xF0, 0x80, 0xF0] ++ [0xF0, 0x80, 0xF0, 0x80, 0x80]

/-- `GLYPH_BASE` (R8, R51): the address of the glyph table. -/
def glyphBase : Nat := 0x000

/-- `GLYPH_BYTES` (R8): the bytes of one glyph. -/
def glyphBytes : Nat := 5

/-- The byte address `a` holds after reset (R32, R290): the glyph table, then zeros. It is also what an
address that memory does not list reads as (log entry 21). -/
def resetByte (a : Nat) : Byte := glyphTable.getD a 0

end Sys2Proof.Machine
end

