-- ==== Sys2Proof/Machine/State.lean ====
section
/-! DEFINITION. The state of CORE as plain data (spec 10_state.md, 43_display.md, 60_exceptions.md,
70_reset_and_hazards.md), the reasons a step can stop, and the state right after construction. -/

namespace Sys2Proof.Machine

/-- The run state (R37). -/
inductive RunState where
  | stopped
  | running
  deriving DecidableEq, Repr

/-- The fault kinds (R251). -/
inductive FaultKind where
  /-- RET with SP = 0 (R253). -/
  | stackUnderflow
  /-- CALL with SP = 16 (R254). -/
  | stackOverflow
  /-- an Unknown word (R255). -/
  | decode
  deriving DecidableEq, Repr

/-- What the fault latch records (R36): the kind, the faulting instruction's address and its word. -/
structure FaultRecord where
  kind : FaultKind
  pc : Word
  word : Word
  deriving DecidableEq, Repr

/-- The output events (R196): there is one kind, the screen-updated notification. -/
inductive OutputEvent where
  | screenUpdated
  deriving DecidableEq, Repr

/-- Who moves when the agenda lists nothing (R238, R270). -/
inductive Schedule where
  /-- The core alone, from now on: the timer and the host make no more steps. -/
  | coreAlone
  /-- The free turns `Config.turn k`, `Config.turn (k + 1)`, … without end. -/
  | free (k : Nat)
  deriving DecidableEq, Repr

/-- Memory (R32, R50): address and byte pairs, addresses strictly rising, none listed that holds what an
unlisted address reads as (`resetByte`). -/
abbrev Memory := List Host.Cell

/-- The display (R28): `display[x][y]` is the cell of column x and row y, true meaning on. -/
abbrev Display := Vector (Vector Bool 32) 64

/-- The state of CORE. -/
structure State where
  /-- V0..VF (R20); V15 is VF, also the flag output (R21). -/
  v : Vector Byte 16
  /-- The program counter (R23). -/
  pc : Word
  /-- The index register I (R26). -/
  i : Word
  /-- The number of stack entries in use, 0..16 (R27). -/
  sp : Fin 17
  /-- The call stack's entries (R27). -/
  stack : Vector Word 16
  /-- The delay timer DT (R29). -/
  dt : Byte
  /-- The sound timer ST (R29). -/
  st : Byte
  /-- Disp (R28). -/
  display : Display
  /-- The key state (R30). -/
  keys : Vector Bool 16
  /-- Memory (R50). -/
  mem : Memory
  /-- The fault latch (R36). -/
  latch : Option FaultRecord
  /-- The run state (R37). -/
  run : RunState
  /-- The output event sequence, oldest first (R35, R196). -/
  events : List OutputEvent
  /-- Whether `dispose()` has been called (R297, log entry 13). -/
  disposed : Bool
  /-- The model's own: the implementation parameters of R8; no step changes them (log entry 1). -/
  config : Config
  /-- The model's own: how many free values have been drawn (R145, R227, log entry 3). -/
  draws : Nat
  /-- The model's own: the agents that move next, in order (R270, log entry 2). -/
  agenda : List AgentEvent
  /-- The model's own: who moves once the agenda lists nothing (R238, R270, log entry 2). -/
  schedule : Schedule
  deriving DecidableEq, Repr

/-- Why the machine has stopped for good. All three are raised by the step of a machine whose fault latch
is set where no event is listed and the core moves alone: nobody steps any more (R252, log entry 10). Safe: a
stopped machine has no successor, as R252 allows. -/
inductive Fault where
  /-- Raised by step after a RET with SP = 0 (R253). Safe. -/
  | stackUnderflow (pc word : Word)
  /-- Raised by step after a CALL with SP = 16 (R254). Safe. -/
  | stackOverflow (pc word : Word)
  /-- Raised by step after an Unknown word (R255). Safe. -/
  | decode (pc word : Word)
  deriving DecidableEq, Repr

/-- Why the model would give an instruction no meaning. -/
inductive Refusal where
  /-- Raised only by an arm of `exec` for an instruction with no meaning yet; no arm does. Safe. -/
  | notModelled (mnemonic : String)
  deriving DecidableEq, Repr

/-- The outcomes of a step of this machine. -/
abbrev Result := Host.Outcome State Fault Refusal

/-- The state right after construction (R38, R292): pc at 0x200, every register, timer, stack entry and
display cell zero, memory at its reset contents, no key pressed, no fault, Stopped, no event. The model's
own fields: the default parameters, no draw made, no event listed and every turn free (log entries 1, 2, 3,
16). -/
def State.reset : State where
  v := Vector.replicate 16 0
  pc := 0x200
  i := 0
  sp := 0
  stack := Vector.replicate 16 0
  dt := 0
  st := 0
  display := Vector.replicate 64 (Vector.replicate 32 false)
  keys := Vector.replicate 16 false
  mem := []
  latch := none
  run := .stopped
  events := []
  disposed := false
  config := defaultConfig
  draws := 0
  agenda := []
  schedule := .free 0

end Sys2Proof.Machine
end

