-- ==== Sys2Proof/Machine/Ops.lean ====
section
/-! DEFINITION. The named operations over memory, registers, pc, stack, timers, outputs and the fault
latch, which every meaning goes through. Taking a fault is `raiseFault`; CORE has no return from one
(spec 60_exceptions.md R259): only the host's `load` clears the latch (Sys2Proof/Machine/Lifecycle.lean). -/

namespace Sys2Proof.Machine

/-! ### Memory (spec 20_memory.md) -/

/-- The byte listed for address `a`, or what an unlisted address reads as. -/
def Memory.lookup : Memory → Nat → Byte
  | [], a => resetByte a
  | c :: m, a => if c.1 = a then c.2 else Memory.lookup m a

/-- Puts an entry into its place by address. -/
def Memory.insert (a : Nat) (b : Byte) : Memory → Memory
  | [] => [(a, b)]
  | c :: m => if a < c.1 then (a, b) :: c :: m else c :: Memory.insert a b m

/-- Takes away what is listed for address `a`. -/
def Memory.erase (m : Memory) (a : Nat) : Memory := m.filter (fun c => c.1 != a)

/-- `MemRead(addr, 1)`: the byte at `addr mod 4096` (R52). -/
def Memory.read (m : Memory) (addr : Nat) : Byte := Memory.lookup m (addr % memSize)

/-- `MemWrite(addr, 1, b)`: sets the byte at `addr mod 4096` (R53); no address is protected. -/
def Memory.write (m : Memory) (addr : Nat) (b : Byte) : Memory :=
  let a := addr % memSize
  if b = resetByte a then Memory.erase m a else Memory.insert a b (Memory.erase m a)

/-- The canonical form: addresses below 4096 and strictly rising, no entry equal to what an unlisted
address reads as. -/
abbrev Memory.wf (m : Memory) : Prop :=
  m.Pairwise (fun c d => c.1 < d.1) ∧ ∀ c ∈ m, c.1 < memSize ∧ c.2 ≠ resetByte c.1

/-- Single-byte reads at `addr`, `addr + 1`, …, each reduced by itself (R56). -/
def Memory.readBytes (m : Memory) (addr : Nat) : Nat → List Byte
  | 0 => []
  | n + 1 => Memory.read m addr :: Memory.readBytes m (addr + 1) n

/-- Single-byte writes at `addr`, `addr + 1`, … in that order, each reduced by itself (R56). -/
def Memory.writeBytes (m : Memory) (addr : Nat) : List Byte → Memory
  | [] => m
  | b :: bs => Memory.writeBytes (Memory.write m addr b) (addr + 1) bs

/-- The state's byte at an address. -/
def readMem (s : State) (addr : Nat) : Byte := Memory.read s.mem addr

/-- The state with its memory replaced. -/
def setMem (s : State) (m : Memory) : State := { s with mem := m }

/-- Fetch (R70): the big-endian word at pc and pc + 1, each address reduced mod 4096. It never faults. -/
def fetchWord (s : State) : Word := wordOfBytes (readMem s s.pc.toNat) (readMem s (s.pc.toNat + 1))

/-! ### General registers (spec 10_state.md R20, R21) -/

/-- `V[x]`. -/
def readV (s : State) (x : Nibble) : Byte := s.v[x.toNat]'(x.isLt)

/-- `V[x] <- b`. No register is hardwired (R20). -/
def writeV (s : State) (x : Nibble) (b : Byte) : State := { s with v := s.v.set x.toNat b x.isLt }

/-- VF is V15 (R21). -/
def regF : Nibble := 0xF

/-- `VF <- f` as the flag output: 1 or 0 (R21). -/
def writeFlag (s : State) (f : Bool) : State := writeV s regF (if f then 1 else 0)

/-- The state with its register file replaced. -/
def setV (s : State) (v : Vector Byte 16) : State := { s with v := v }

/-- `I <- w` (R26). -/
def writeI (s : State) (w : Word) : State := { s with i := w }

/-! ### The program counter and the end of an instruction (R85–R87, R100) -/

/-- The common advance: `pc <- (pc + 2) mod 2^16` (R85). -/
def advance (s : State) : State := { s with pc := s.pc + 2 }

/-- A skip in the execute step: an extra 2, before the advance (R86). -/
def skip (s : State) : State := { s with pc := s.pc + 2 }

/-- `skip` if the condition holds. -/
def skipIf (c : Bool) (s : State) : State := if c then skip s else s

/-- `jump(t)`: `pc <- (t - 2) mod 2^16`, so that the advance lands on t (R100). -/
def jump (s : State) (t : Word) : State := { s with pc := t - 2 }

/-- The instruction completes: the common advance ends it (R85). -/
def complete (s : State) : Result := .next (advance s)

/-- `hold`: the instruction does not complete; nothing is written, pc stays (R226). -/
def hold (s : State) : Result := .next s

/-! ### Faults (R250–R259) -/

/-- The fault codes of R251. -/
def FaultKind.code : FaultKind → Nat
  | .stackUnderflow => 1
  | .stackOverflow => 2
  | .decode => 3

/-- `raise F` (R252): the latch records the kind, the address and the word of the faulting instruction;
nothing else is written and pc stays at the instruction. -/
def raiseFault (kind : FaultKind) (word : Word) (s : State) : Result :=
  .next { s with latch := some ⟨kind, s.pc, word⟩ }

/-! ### The call stack (R27, R101, R102) -/

/-- Whether the stack is full: SP = 16. -/
def stackFull (s : State) : Bool := s.sp == 16

/-- Whether the stack is empty: SP = 0. -/
def stackEmpty (s : State) : Bool := s.sp == 0

/-- `Stack[SP] <- w; SP <- SP + 1` (R102), for a stack that is not full; a full one is left as it is. -/
def push (s : State) (w : Word) : State :=
  if h : s.sp.val < 16 then
    { s with stack := s.stack.set s.sp.val w h, sp := ⟨s.sp.val + 1, by omega⟩ }
  else s

/-- `SP <- SP - 1`, the entry kept (R101). -/
def pop (s : State) : State := { s with sp := ⟨s.sp.val - 1, by omega⟩ }

/-- `Stack[SP - 1]`: the entry a pop takes (R101). -/
def topEntry (s : State) : Word := s.stack.getD (s.sp.val - 1) 0

/-! ### Timers (R29, R63) -/

/-- `DT <- b`, one atomic write (R231). -/
def writeDT (s : State) (b : Byte) : State := { s with dt := b }

/-- `ST <- b`, one atomic write (R232). -/
def writeST (s : State) (b : Byte) : State := { s with st := b }

/-! ### Outputs (R28, R196) -/

/-- The state with its display replaced. -/
def setDisplay (s : State) (d : Display) : State := { s with display := d }

/-- `emit ScreenUpdated`: one event appended to the output event sequence (R196). -/
def emitScreenUpdated (s : State) : State := { s with events := s.events ++ [.screenUpdated] }

/-! ### Draws (R11, R145) -/

/-- The byte a draw gives now: a free value. -/
def drawnByte (s : State) : Byte := Config.draw s.draws

/-- A draw is used up, so that the next one is fresh. -/
def countDraw (s : State) : State := { s with draws := s.draws + 1 }

end Sys2Proof.Machine
end

