-- ==== Sys2Proof/Machine/Operands.lean ====
section
/-! DEFINITION. The operand forms (spec 30_encoding.md R74, 42_index_memory.md): unsigned immediates, jump
targets, the bytes at I, the glyph address, the BCD digits and the pressed key. -/

namespace Sys2Proof.Machine

/-- The 12-bit immediate as a 16-bit value, zero-extended (R74). -/
def zextAddr (nnn : Addr) : Word := nnn.setWidth 16

/-- A byte as a 16-bit value, zero-extended (R74). -/
def zextByte (b : Byte) : Word := b.setWidth 16

/-- The target of JP V0,nnn: nnn + V[0], kept as a 16-bit value (R108). -/
def indexedTarget (s : State) (nnn : Addr) : Word := zextAddr nnn + zextByte (readV s 0)

/-- The address `I + k` of a data access, before its reduction (42_index_memory.md, "Addressing"). -/
def dataAddr (s : State) (k : Nat) : Nat := s.i.toNat + k

/-- The n bytes at I, I + 1, … (R56, R191). -/
def bytesAtI (s : State) (n : Nat) : List Byte := Memory.readBytes s.mem (dataAddr s 0) n

/-- The state with bytes written at I, I + 1, … (R56, R163, R164). -/
def storeAtI (s : State) (bs : List Byte) : State :=
  setMem s (Memory.writeBytes s.mem (dataAddr s 0) bs)

/-- V[0], …, V[n-1]: the registers a bulk store takes (R164). -/
def firstRegs (s : State) (n : Nat) : List Byte := s.v.toList.take n

/-- The register file after `V[k] <- MemRead(I + k)` for k in 0 .. n-1, in that order (R165). -/
def loadRegs (m : Memory) (base : Nat) : Nat → Vector Byte 16 → Vector Byte 16
  | 0, v => v
  | k + 1, v => (loadRegs m base k v).setIfInBounds k (Memory.read m (base + k))

/-- GLYPH_BASE + (b & 0xF) * 5: where the glyph of a digit lies (R162). -/
def glyphAddr (b : Byte) : Word := BitVec.ofNat 16 (glyphBase + (b &&& 0xF).toNat * glyphBytes)

/-- The hundreds, tens and ones digits of a byte (R163). -/
def bcdDigits (b : Byte) : List Byte :=
  [BitVec.ofNat 8 (b.toNat / 100), BitVec.ofNat 8 (b.toNat / 10 % 10), BitVec.ofNat 8 (b.toNat % 10)]

/-- The lowest-numbered pressed key as a byte, if any is pressed (R220). -/
def pressedKey (s : State) : Option Byte := (s.keys.toList.findIdx? id).map (BitVec.ofNat 8)

/-- The sentinel `NO_KEY` as a comparison sees it: no byte at all, or one byte value (R221). -/
def noKeyValue (c : Config) : Option Byte :=
  match c.noKey with
  | .noByte => none
  | .byte b => some b

/-- `LowestKey()` (R220) as the key skips compare with it: the lowest pressed key, else `NO_KEY`;
`none` is a value equal to no byte (R221). -/
def lowestKey (s : State) : Option Byte :=
  match pressedKey s with
  | some k => some k
  | none => noKeyValue s.config

/-- Whether V[x] = LowestKey(): the full 8 bits are compared (R222). -/
def matchesKey (s : State) (x : Nibble) : Bool := lowestKey s == some (readV s x)

end Sys2Proof.Machine
end

