-- ==== Sys2Proof/Machine/ControlFlow.lean ====
section
/-! DEFINITION. The meanings of the control-flow instructions (spec 40_control_flow.md). -/

namespace Sys2Proof.Machine

/-- RET (R101): StackUnderflow when SP = 0; else SP - 1 and jump to the popped entry + 2. -/
def execRet (s : State) : Result :=
  if stackEmpty s then raiseFault .stackUnderflow (encode .ret) s
  else complete (jump (pop s) (topEntry s + 2))

/-- JP nnn (R103). -/
def execJp (nnn : Addr) (s : State) : Result := complete (jump s (zextAddr nnn))

/-- CALL nnn (R102): StackOverflow when SP = 16; else the CALL's own address is pushed, then the jump. -/
def execCall (nnn : Addr) (s : State) : Result :=
  if stackFull s then raiseFault .stackOverflow (encode (.call nnn)) s
  else complete (jump (push s s.pc) (zextAddr nnn))

/-- SE Vx,kk (R104). -/
def execSeImm (x : Nibble) (kk : Byte) (s : State) : Result := complete (skipIf (readV s x == kk) s)

/-- SNE Vx,kk (R105). -/
def execSneImm (x : Nibble) (kk : Byte) (s : State) : Result := complete (skipIf (readV s x != kk) s)

/-- SE Vx,Vy (R106). -/
def execSeReg (x y : Nibble) (s : State) : Result := complete (skipIf (readV s x == readV s y) s)

/-- SNE Vx,Vy (R107). -/
def execSneReg (x y : Nibble) (s : State) : Result := complete (skipIf (readV s x != readV s y) s)

/-- JP V0,nnn (R108): the register is always V0. -/
def execJpV0 (nnn : Addr) (s : State) : Result := complete (jump s (indexedTarget s nnn))

end Sys2Proof.Machine
end

