-- ==== Sys2Proof/Machine/DisplayUnit.lean ====
section
/-! DEFINITION. The display unit (spec 43_display.md R192–R195): its clear and XOR-blit operations and
the host's view of the grid. -/

namespace Sys2Proof.Machine

/-- The cell at column x mod 64 and row y mod 32: toroidal addressing (R194). -/
def Display.cell (d : Display) (x y : Nat) : Bool :=
  (d[x % 64]'(Nat.mod_lt _ (by decide)))[y % 32]'(Nat.mod_lt _ (by decide))

/-- The grid with the cell at column x mod 64 and row y mod 32 inverted. -/
def Display.toggle (d : Display) (x y : Nat) : Display :=
  d.set (x % 64)
    ((d[x % 64]'(Nat.mod_lt _ (by decide))).set (y % 32) (!Display.cell d x y) (Nat.mod_lt _ (by decide)))
    (Nat.mod_lt _ (by decide))

/-- `clear()`: every cell false (R193). -/
def clearedDisplay : Display := Vector.replicate 64 (Vector.replicate 32 false)

/-- A blit under way: the grid so far and whether a lit cell has been turned off. -/
structure Blit where
  grid : Display
  collided : Bool
  deriving DecidableEq, Repr

/-- The sprite bit of column `col`, 0..7: column 0 takes bit 7 (R195). -/
def spriteBit (b : Byte) (col : Nat) : Bool := b.getLsbD (7 - col)

/-- One sprite bit XORed into the cell at (x, y): a bit 0 leaves the cell, a bit 1 inverts it and
collides when it was on (R194). -/
def blitBit (acc : Blit) (bit : Bool) (x y : Nat) : Blit :=
  if bit then ⟨Display.toggle acc.grid x y, acc.collided || Display.cell acc.grid x y⟩ else acc

/-- The first n columns of one sprite row, from column 0 on (R194). -/
def blitCols (b : Byte) (ox y : Nat) : Nat → Blit → Blit
  | 0, acc => acc
  | n + 1, acc => blitBit (blitCols b ox y n acc) (spriteBit b n) (ox + n) y

/-- One sprite row: its 8 columns (R194). -/
def blitRow (b : Byte) (ox y : Nat) (acc : Blit) : Blit := blitCols b ox y 8 acc

/-- The sprite's rows, the first at row `oy` (R194). -/
def blitRows : List Byte → Nat → Nat → Blit → Blit
  | [], _, _, acc => acc
  | b :: bs, ox, oy, acc => blitRows bs ox (oy + 1) (blitRow b ox oy acc)

/-- `drawSprite(sprite, ox, oy)` (R194): the grid after it and whether it collided. -/
def drawSprite (d : Display) (sprite : List Byte) (ox oy : Nat) : Blit :=
  blitRows sprite ox oy ⟨d, false⟩

/-- `renderableImage()` (R197): a copy of the grid; scaling and colours are outside CORE. -/
def renderableImage (s : State) : Display := s.display

end Sys2Proof.Machine
end

