-- ==== Sys2Proof/Machine/DisplayInstr.lean ====
section
/-! DEFINITION. The meanings of the drawing instructions (spec 43_display.md). -/

namespace Sys2Proof.Machine

/-- CLS (R190): every cell off, then one ScreenUpdated. -/
def execCls (s : State) : Result := complete (emitScreenUpdated (setDisplay s clearedDisplay))

/-- DRW Vx,Vy,n (R191): n sprite bytes from I on, XORed in at (Vx, Vy); the origin and the bytes are read
before VF is written; VF is always written; then one ScreenUpdated. -/
def execDrw (x y n : Nibble) (s : State) : Result :=
  let out := drawSprite s.display (bytesAtI s n.toNat) (readV s x).toNat (readV s y).toNat
  complete (emitScreenUpdated (writeFlag (setDisplay s out.grid) out.collided))

end Sys2Proof.Machine
end

