-- ==== Sys2Proof/Machine/IndexMemory.lean ====
section
/-! DEFINITION. The meanings of the index-register and memory-transfer instructions (spec
42_index_memory.md). None of the transfers changes I (D7). -/

namespace Sys2Proof.Machine

/-- LD I,nnn (R160): the upper 4 bits become 0. -/
def execLdI (nnn : Addr) (s : State) : Result := complete (writeI s (zextAddr nnn))

/-- ADD I,Vx (R161): wraps mod 2^16, VF not written. -/
def execAddI (x : Nibble) (s : State) : Result := complete (writeI s (s.i + zextByte (readV s x)))

/-- LD F,Vx (R162): the glyph of the low nibble of Vx. -/
def execLdF (x : Nibble) (s : State) : Result := complete (writeI s (glyphAddr (readV s x)))

/-- LD B,Vx (R163): three decimal digits at I, I + 1, I + 2. -/
def execLdB (x : Nibble) (s : State) : Result := complete (storeAtI s (bcdDigits (readV s x)))

/-- LD [I],Vx (R164, R166): V0..V(x-1), x itself excluded. -/
def execLdStore (x : Nibble) (s : State) : Result := complete (storeAtI s (firstRegs s x.toNat))

/-- LD Vx,[I] (R165, R166): V0..V(x-1), x itself excluded. -/
def execLdLoad (x : Nibble) (s : State) : Result :=
  complete (setV s (loadRegs s.mem (dataAddr s 0) x.toNat s.v))

end Sys2Proof.Machine
end

