-- ==== Sys2Proof/Machine/InputTimers.lean ====
section
/-! DEFINITION. The meanings of the key and timer instructions, and the timer unit's tick (spec
44_input_timers.md). -/

namespace Sys2Proof.Machine

/-- SKP Vx (R222): skip when Vx equals the lowest pressed key, not when "key Vx is pressed". -/
def execSkp (x : Nibble) (s : State) : Result := complete (skipIf (matchesKey s x) s)

/-- SKNP Vx (R223): the same comparison; skip when they differ. -/
def execSknp (x : Nibble) (s : State) : Result := complete (skipIf (!matchesKey s x) s)

/-- LD Vx,DT (R230). -/
def execLdVxDT (x : Nibble) (s : State) : Result := complete (writeV s x s.dt)

/-- LD Vx,K in block mode (R225): hold while no key is pressed, else the lowest one. -/
def keyWaitBlock (x : Nibble) (s : State) : Result :=
  match pressedKey s with
  | none => hold s
  | some k => complete (writeV s x k)

/-- LD Vx,K in stub mode (R227): a drawn byte, at once; the draw is a free value. -/
def keyWaitStub (x : Nibble) (s : State) : Result := complete (countDraw (writeV s x (drawnByte s)))

/-- LD Vx,K (R225, R227), by `KEY_WAIT_MODE`. -/
def execLdVxK (x : Nibble) (s : State) : Result :=
  match s.config.keyWait with
  | .block => keyWaitBlock x s
  | .stub => keyWaitStub x s

/-- LD DT,Vx (R231). -/
def execLdDTVx (x : Nibble) (s : State) : Result := complete (writeDT s (readV s x))

/-- LD ST,Vx (R232). -/
def execLdSTVx (x : Nibble) (s : State) : Result := complete (writeST s (readV s x))

/-- One timer counted down, never below zero (R236). -/
def countDown (b : Byte) : Byte := if b = 0 then 0 else b - 1

/-- `tick()`: one atomic step, the sound timer and then the delay timer (R236). -/
def tick (s : State) : State :=
  let s' := writeST s (countDown s.st)
  writeDT s' (countDown s'.dt)

/-- The sound output: `SoundOn = (ST != 0)` (R262). -/
def soundOn (s : State) : Bool := s.st != 0

end Sys2Proof.Machine
end

