-- ==== Sys2Proof/Machine/Flags.lean ====
section
/-! DEFINITION. Every flag computation: the operations `op(a, b) = (r, f)` of the five flag-writing ALU
instructions (spec 41_register_alu.md R137–R141) and the order in which Vx and VF are written (R130). -/

namespace Sys2Proof.Machine

/-- A result and a flag. -/
structure AluOut where
  result : Byte
  flag : Bool
  deriving DecidableEq, Repr

/-- ADD (R137): the sum mod 256; carry when the unsigned sum exceeds 255. -/
def aluAdd (a b : Byte) : AluOut := ⟨a + b, decide (a.toNat + b.toNat > 255)⟩

/-- SUB (R138): a - b mod 256; the flag when a is strictly greater. -/
def aluSub (a b : Byte) : AluOut := ⟨a - b, decide (a.toNat > b.toNat)⟩

/-- SUBN (R140): b - a mod 256; the flag when b is strictly greater. -/
def aluSubn (a b : Byte) : AluOut := ⟨b - a, decide (b.toNat > a.toNat)⟩

/-- The operand SHR and SHL shift: Vx, or Vy under `SHIFT_SOURCE = y` (R139, R141). -/
def shiftOperand (src : ShiftSource) (a b : Byte) : Byte :=
  match src with
  | .x => a
  | .y => b

/-- SHR (R139): shifted right by one; the flag is bit 0 of Vy. -/
def aluShr (src : ShiftSource) (a b : Byte) : AluOut := ⟨shiftOperand src a b >>> 1, b.getLsbD 0⟩

/-- SHL (R141): shifted left by one, mod 256; the flag is bit 7 of Vy. -/
def aluShl (src : ShiftSource) (a b : Byte) : AluOut := ⟨shiftOperand src a b <<< 1, b.getLsbD 7⟩

/-- `alu_flag(op)` (R130): flag_last samples the operands, writes Vx and then VF; flag_first writes VF,
reads the operands again and writes Vx. -/
def aluFlag (op : Byte → Byte → AluOut) (x y : Nibble) (s : State) : State :=
  let out := op (readV s x) (readV s y)
  match s.config.vfOrder with
  | .flagLast => writeFlag (writeV s x out.result) out.flag
  | .flagFirst =>
    let s' := writeFlag s out.flag
    writeV s' x (op (readV s' x) (readV s' y)).result

end Sys2Proof.Machine
end

