-- ==== Sys2Proof/Machine/RegisterAlu.lean ====
section
/-! DEFINITION. The meanings of the register loads, the ALU family and RND (spec 41_register_alu.md). -/

namespace Sys2Proof.Machine

/-- LD Vx,kk (R131). -/
def execLdImm (x : Nibble) (kk : Byte) (s : State) : Result := complete (writeV s x kk)

/-- ADD Vx,kk (R132): wraps mod 256, no flag. -/
def execAddImm (x : Nibble) (kk : Byte) (s : State) : Result := complete (writeV s x (readV s x + kk))

/-- LD Vx,Vy (R133). -/
def execLdReg (x y : Nibble) (s : State) : Result := complete (writeV s x (readV s y))

/-- OR Vx,Vy (R134): VF is not reset. -/
def execOrReg (x y : Nibble) (s : State) : Result := complete (writeV s x (readV s x ||| readV s y))

/-- AND Vx,Vy (R135). -/
def execAndReg (x y : Nibble) (s : State) : Result := complete (writeV s x (readV s x &&& readV s y))

/-- XOR Vx,Vy (R136). -/
def execXorReg (x y : Nibble) (s : State) : Result := complete (writeV s x (readV s x ^^^ readV s y))

/-- ADD Vx,Vy (R137): VF takes the carry. -/
def execAddReg (x y : Nibble) (s : State) : Result := complete (aluFlag aluAdd x y s)

/-- SUB Vx,Vy (R138): VF = 1 when Vx is strictly greater. -/
def execSub (x y : Nibble) (s : State) : Result := complete (aluFlag aluSub x y s)

/-- SHR Vx,Vy (R139): VF takes bit 0 of Vy. -/
def execShr (x y : Nibble) (s : State) : Result :=
  complete (aluFlag (aluShr s.config.shiftSource) x y s)

/-- SUBN Vx,Vy (R140): VF = 1 when Vy is strictly greater. -/
def execSubn (x y : Nibble) (s : State) : Result := complete (aluFlag aluSubn x y s)

/-- SHL Vx,Vy (R141): VF takes bit 7 of Vy. -/
def execShl (x y : Nibble) (s : State) : Result :=
  complete (aluFlag (aluShl s.config.shiftSource) x y s)

/-- RND Vx,kk (R145): a drawn byte AND kk; the draw is a free value. -/
def execRnd (x : Nibble) (kk : Byte) (s : State) : Result :=
  complete (countDraw (writeV s x (drawnByte s &&& kk)))

end Sys2Proof.Machine
end

