-- ==== Sys2Proof/Machine/Dispatch.lean ====
section
/-! DEFINITION. The dispatch: one arm for each instruction (spec 30_encoding.md R73, R75). -/

namespace Sys2Proof.Machine

def exec (i : Instr) (s : State) : Host.Outcome State Fault Refusal :=
  match i with
  | .cls => Sys2Proof.Machine.execCls s
  | .ret => Sys2Proof.Machine.execRet s
  | .jp nnn => Sys2Proof.Machine.execJp nnn s
  | .call nnn => Sys2Proof.Machine.execCall nnn s
  | .seImm x kk => Sys2Proof.Machine.execSeImm x kk s
  | .sneImm x kk => Sys2Proof.Machine.execSneImm x kk s
  | .seReg x y _ => Sys2Proof.Machine.execSeReg x y s
  | .ldImm x kk => Sys2Proof.Machine.execLdImm x kk s
  | .addImm x kk => Sys2Proof.Machine.execAddImm x kk s
  | .ldReg x y => Sys2Proof.Machine.execLdReg x y s
  | .orReg x y => Sys2Proof.Machine.execOrReg x y s
  | .andReg x y => Sys2Proof.Machine.execAndReg x y s
  | .xorReg x y => Sys2Proof.Machine.execXorReg x y s
  | .addReg x y => Sys2Proof.Machine.execAddReg x y s
  | .sub x y => Sys2Proof.Machine.execSub x y s
  | .shr x y => Sys2Proof.Machine.execShr x y s
  | .subn x y => Sys2Proof.Machine.execSubn x y s
  | .shl x y => Sys2Proof.Machine.execShl x y s
  | .sneReg x y _ => Sys2Proof.Machine.execSneReg x y s
  | .ldI nnn => Sys2Proof.Machine.execLdI nnn s
  | .jpV0 nnn => Sys2Proof.Machine.execJpV0 nnn s
  | .rnd x kk => Sys2Proof.Machine.execRnd x kk s
  | .drw x y n => Sys2Proof.Machine.execDrw x y n s
  | .skp x => Sys2Proof.Machine.execSkp x s
  | .sknp x => Sys2Proof.Machine.execSknp x s
  | .ldVxDT x => Sys2Proof.Machine.execLdVxDT x s
  | .ldVxK x => Sys2Proof.Machine.execLdVxK x s
  | .ldDTVx x => Sys2Proof.Machine.execLdDTVx x s
  | .ldSTVx x => Sys2Proof.Machine.execLdSTVx x s
  | .addI x => Sys2Proof.Machine.execAddI x s
  | .ldF x => Sys2Proof.Machine.execLdF x s
  | .ldB x => Sys2Proof.Machine.execLdB x s
  | .ldStore x => Sys2Proof.Machine.execLdStore x s
  | .ldLoad x => Sys2Proof.Machine.execLdLoad x s

end Sys2Proof.Machine
end

