-- ==== Sys2Proof/Machine/Lifecycle.lean ====
section
/-! DEFINITION. Reset, the host's calls and what the host can read (spec 70_reset_and_hazards.md,
60_exceptions.md R273–R277). -/

namespace Sys2Proof.Machine

/-- `reset()` (R290): everything but the keys, the run state and the output event sequence; the model's
own fields and `disposed` are not reset either. No event is emitted (R196). -/
def resetMachine (s : State) : State :=
  { s with
    v := State.reset.v, pc := State.reset.pc, i := State.reset.i, sp := State.reset.sp,
    stack := State.reset.stack, dt := State.reset.dt, st := State.reset.st,
    display := clearedDisplay, mem := State.reset.mem, latch := none }

/-- `stop()` (R296): Stopped, nothing else. -/
def stopMachine (s : State) : State := { s with run := .stopped }

/-- `start()` (R295): Running; nothing at all while a fault is latched (R259). -/
def startMachine (s : State) : State :=
  match s.latch with
  | none => { s with run := .running }
  | some _ => s

/-- The most bytes an image has: 4096 - 0x200 = 3584; those beyond are dropped (R294). -/
def imageCapacity : Nat := memSize - programBase

/-- `load(bytes)` (R293): stop, reset, copy the image to 0x200; the run state stays Stopped. -/
def loadImage (image : List Byte) (s : State) : State :=
  let s' := resetMachine (stopMachine s)
  setMem s' (Memory.writeBytes s'.mem programBase (image.take imageCapacity))

/-- `setKey(index, pressed)` (R273). -/
def setKey (key : Fin 16) (pressed : Bool) (s : State) : State :=
  { s with keys := s.keys.set key.val pressed key.isLt }

/-- `dispose()` (R297): as `stop()`, after which no further call is taken. -/
def disposeMachine (s : State) : State := { stopMachine s with disposed := true }

/-- What a call does to a CORE that takes it. -/
def takeCall (c : HostCall) (s : State) : State :=
  match c with
  | .load image => loadImage image s
  | .start => startMachine s
  | .stop => stopMachine s
  | .dispose => disposeMachine s
  | .setKey key pressed => setKey key pressed s

/-- A host call, one atomic step (R270); after `dispose()` none is taken (R297, log entry 13). -/
def hostCall (c : HostCall) (s : State) : State := if s.disposed then s else takeCall c s

/-- What CORE shows outside (R277): exactly these four. -/
structure Outputs where
  /-- The display grid (R197). -/
  image : Display
  /-- The screen-updated events (R196). -/
  events : List OutputEvent
  /-- The sound output (R262). -/
  sound : Bool
  /-- The fault latch (R258). -/
  latch : Option FaultRecord
  deriving DecidableEq, Repr

/-- The host's reads, which change nothing (R274). -/
def outputs (s : State) : Outputs := ⟨renderableImage s, s.events, soundOn s, s.latch⟩

end Sys2Proof.Machine
end

