-- ==== Sys2Proof/Machine/Agents.lean ====
section
/-! DEFINITION. The three agents and their interleaving (spec 60_exceptions.md R270–R276): the core
agent's fetch-decode-execute cycle, the timer agent's tick, the host's calls, and which of them moves
next. Sys2Proof/Machine/Step.lean only calls `agentStep`. -/

namespace Sys2Proof.Machine

/-- The core agent and the timer agent step only while the run state is Running and the fault latch is
None (R37, R271, R272). -/
def enabled (s : State) : Bool := s.run == .running && s.latch.isNone

/-- One whole instruction (R88): fetch (R70), decode (R76), execute and advance; an Unknown word is not
executed and raises DecodeFault with the word (R77, R255). -/
def runInstruction (s : State) : Result :=
  match decodeWord s.config.strict59 (fetchWord s) with
  | .ok i => exec i s
  | .error _ => raiseFault .decode (fetchWord s) s

/-- The core agent's step (R271). -/
def coreStep (s : State) : Result := if enabled s then runInstruction s else .next s

/-- The timer agent's step (R272). -/
def timerStep (s : State) : Result := if enabled s then .next (tick s) else .next s

/-- One agent's step. An event of an agent that is not enabled passes without effect (log entry 24). -/
def performEvent (e : AgentEvent) (s : State) : Result :=
  match e with
  | .core => coreStep s
  | .tick => timerStep s
  | .host c => .next (hostCall c s)

/-- The stop of a latched machine, under the kind's own name (R252). -/
def faultOf (r : FaultRecord) : Fault :=
  match r.kind with
  | .stackUnderflow => .stackUnderflow r.pc r.word
  | .stackOverflow => .stackOverflow r.pc r.word
  | .decode => .decode r.pc r.word

/-- The agent whose turn it is (R270): the first of the agenda, else the schedule's, a free one without end
or the core alone (R238, log entry 2). -/
def turnNow (s : State) : AgentEvent :=
  match s.agenda with
  | e :: _ => e
  | [] =>
    match s.schedule with
    | .free k => Config.turn k
    | .coreAlone => .core

/-- The state whose present turn is used up. Under the core alone there is nothing to use up. -/
def turnTaken (s : State) : State :=
  match s.agenda with
  | _ :: rest => { s with agenda := rest }
  | [] =>
    match s.schedule with
    | .free k => { s with schedule := .free (k + 1) }
    | .coreAlone => s

/-- The fault a machine has stopped at for good: one is latched and nobody but the core, which it disables,
will move again (R252, log entry 10). -/
def deadEnd (s : State) : Option FaultRecord :=
  match s.agenda, s.schedule with
  | [], .coreAlone => s.latch
  | _, _ => none

/-- The step: the agent whose turn it is moves (R270); at a dead end there is no successor (R252). -/
def agentStep (s : State) : Result :=
  match deadEnd s with
  | some r => .fault (faultOf r)
  | none => performEvent (turnNow s) (turnTaken s)

/-- The state with the core's turn next: put before the listed turns, else the core alone. -/
def coreTurnFirst (s : State) : State :=
  match s.agenda with
  | e :: rest => { s with agenda := .core :: e :: rest }
  | [] => { s with schedule := .coreAlone }

/-- The machine started by the host with the word's two bytes where the next fetch reads them (R55, R70)
and the core agent next to move. -/
def placedAtPc (s : State) (w : Word) : State :=
  coreTurnFirst { s with
    mem := Memory.writeBytes s.mem s.pc.toNat [hiByte w, loByte w],
    latch := none, run := .running }

end Sys2Proof.Machine
end

