-- ==== Sys2Proof/Machine/Step.lean ====
section
/-! DEFINITION. The step of the machine: one atomic step of one agent (spec 60_exceptions.md R270), and
how the host places one instruction to be run. -/

namespace Sys2Proof.Machine

/-- One step: the agent whose turn it is moves (R270). -/
def step (s : State) : Host.Outcome State Fault Refusal := agentStep s

/-- `s` with an instruction placed where `step` fetches next, loaded and started (log entry 12): its
table word of `nbits` bits, the bits above them zero. -/
def State.withFetchWord (s : State) (nbits w : Nat) : State :=
  placedAtPc s (BitVec.ofNat 16 (w % 2 ^ nbits))

end Sys2Proof.Machine
end

