-- ==== Sys2Proof/Safety.lean ====
section
/-! DEFINITION. What claims about CORE are stated in: which parts of the state an instruction keeps, the
rule of a flag-writing instruction, the Unknown words, the cells a sprite covers, the invariant of the
machine, whose step it is, sequences of calls and returns, and the states two runs may differ in. -/

namespace Sys2Proof.Safety

open Sys2Proof.Machine

/-! ### Frames -/

/-- The parts of the state, apart from pc, which every statement gives by itself (R24). -/
inductive Part where
  | registers | index | stack | delayTimer | soundTimer | memory | display | events
  | keys | latch | runState | disposed | config | draws | agenda | schedule
  deriving DecidableEq, Repr

/-- A part reads the same before (`s`) and after (`t`): every register, every cell, every byte of memory. -/
def PartKept (p : Part) (s t : State) : Prop :=
  match p with
  | .registers => ∀ r, readV t r = readV s r
  | .index => t.i = s.i
  | .stack => t.sp = s.sp ∧ t.stack = s.stack
  | .delayTimer => t.dt = s.dt
  | .soundTimer => t.st = s.st
  | .memory => ∀ a, readMem t a = readMem s a
  | .display => ∀ x y, Display.cell t.display x y = Display.cell s.display x y
  | .events => t.events = s.events
  | .keys => t.keys = s.keys
  | .latch => t.latch = s.latch
  | .runState => t.run = s.run
  | .disposed => t.disposed = s.disposed
  | .config => t.config = s.config
  | .draws => t.draws = s.draws
  | .agenda => t.agenda = s.agenda
  | .schedule => t.schedule = s.schedule

/-- Every part but the listed ones is kept; pc is not spoken of. -/
def ChangesOnly (parts : List Part) (s t : State) : Prop := ∀ p, p ∉ parts → PartKept p s t

/-- Every register but the listed ones is kept. -/
def RegsKeptBut (dest : List Nibble) (s t : State) : Prop := ∀ r, r ∉ dest → readV t r = readV s r

/-- Every byte is kept but those of the `n` bytes stored from address `base` on, each address reduced
mod 4096 by itself (R56). -/
def BytesKeptBut (base n : Nat) (s t : State) : Prop :=
  ∀ a, (∀ k, k < n → a % 4096 ≠ (base + k) % 4096) → readMem t a = readMem s a

/-! ### Flags (R130) -/

/-- The rule of a flag-writing ALU instruction with result `res a b` and flag `flag a b`, by `VF_ORDER`
(R130): the result in Vx and the flag in VF, with the last write deciding where x = 0xF, and with the
operands read again after the flag write under flag_first. -/
def FlagRule (res : Nat → Nat → Nat) (flag : Nat → Nat → Bool) (x y : Nibble) (s t : State) : Prop :=
  let f := (flag (readV s x).toNat (readV s y).toNat).toNat
  RegsKeptBut [x, 0xF] s t ∧
  match s.config.vfOrder with
  | .flagLast =>
    (readV t 0xF).toNat = f ∧
    (x ≠ 0xF → (readV t x).toNat = res (readV s x).toNat (readV s y).toNat)
  | .flagFirst =>
    let reread := fun r : Nibble => if r = 0xF then f else (readV s r).toNat
    (x ≠ 0xF → (readV t 0xF).toNat = f) ∧ (readV t x).toNat = res (reread x) (reread y)

/-! ### Unknown words (R77, R80) -/

/-- The Unknown words of R77's table, with the words `STRICT_5_9 = true` adds. -/
def Unknown (strict : Bool) (w : Word) : Prop :=
  (w.toNat < 0x1000 ∧ w ≠ 0x00E0 ∧ w ≠ 0x00EE) ∨
  (opField w = 0x8 ∧ nField w ∈ [0x8, 0x9, 0xA, 0xB, 0xC, 0xD, 0xF]) ∨
  (opField w = 0xE ∧ kkField w ∉ [0x9E, 0xA1]) ∨
  (opField w = 0xF ∧ kkField w ∉ [0x07, 0x0A, 0x15, 0x18, 0x1E, 0x29, 0x33, 0x55, 0x65]) ∨
  (strict = true ∧ (opField w = 0x5 ∨ opField w = 0x9) ∧ nField w ≠ 0)

/-! ### Display (R194, R195) -/

/-- A set bit of the sprite DRW Vx,Vy,n reads in state `s` lands on the cell (cx, cy): row r and column c
of the sprite, the bit 7 - c of the byte at I + r, at (Vx + c) mod 64 and (Vy + r) mod 32. -/
def SpriteCovers (s : State) (x y n : Nibble) (cx cy : Nat) : Prop :=
  ∃ r c, r < n.toNat ∧ c < 8 ∧ ((readV s x).toNat + c) % 64 = cx ∧ ((readV s y).toNat + r) % 32 = cy ∧
    (readMem s (dataAddr s r)).getLsbD (7 - c) = true

/-! ### Keys (R220) -/

/-- k is the lowest-numbered pressed key. -/
def LowestPressed (s : State) (k : Nat) : Prop :=
  ∃ h : k < 16, s.keys[k] = true ∧ ∀ j, ∀ hj : j < k, s.keys[j] = false

/-- No key is pressed. -/
def NoKeyPressed (s : State) : Prop := ∀ k, ∀ h : k < 16, s.keys[k] = false

/-! ### Whose step it is (R270) -/

/-- The next step is the core agent's: listed first, drawn by the free schedule, or the core's alone. -/
def CoreNext (s : State) : Prop := turnNow s = .core

/-- The next step is the core agent's, it is enabled, and the word at pc decodes to `i` (R271). -/
def CoreRuns (s : State) (i : Instr) : Prop :=
  CoreNext s ∧ s.run = .running ∧ s.latch = none ∧ decodeWord s.config.strict59 (fetchWord s) = .ok i

/-- The next step is the host's call `c`, which CORE takes (R270, R297). -/
def HostCalls (s : State) (c : HostCall) : Prop :=
  s.disposed = false ∧ turnNow s = .host c

/-- The next step is the timer agent's and it is enabled (R272). -/
def TimerTicks (s : State) : Prop :=
  s.run = .running ∧ s.latch = none ∧ turnNow s = .tick

/-- A fault is latched, no turn is listed and only the core, which the fault disables, would move (R252). -/
def AtDeadEnd (s : State) : Prop := s.agenda = [] ∧ s.schedule = .coreAlone ∧ s.latch ≠ none

/-- Weak fairness of the free turns (R280): the core and the timer each move again, for ever. A claim about
an endless run takes it as a hypothesis; the model does not assume it (log entry 20). -/
def FairTurns : Prop :=
  ∀ n, (∃ m, n ≤ m ∧ Config.turn m = .core) ∧ (∃ m, n ≤ m ∧ Config.turn m = .tick)

/-! ### The end of a run (R281) -/

/-- The word at pc is a jump to pc itself. -/
def AtSelfJump (s : State) : Prop :=
  ∃ nnn, decodeWord s.config.strict59 (fetchWord s) = .ok (.jp nnn) ∧ nnn.toNat = s.pc.toNat

/-! ### The invariant -/

/-- A latched fault explains itself in the state that holds it (R251, R256): its pc and word are those of
the instruction still at pc, and its kind's condition holds. -/
def LatchExplained (s : State) : Prop :=
  ∀ r, s.latch = some r →
    r.pc = s.pc ∧ r.word = fetchWord s ∧
    match r.kind with
    | .stackUnderflow => s.sp.val = 0 ∧ r.word = 0x00EE
    | .stackOverflow => s.sp.val = 16 ∧ opField r.word = 0x2
    | .decode => Unknown s.config.strict59 r.word

/-- What every step keeps. -/
structure Inv (s : State) : Prop where
  /-- Memory is in its canonical form. -/
  memory : Memory.wf s.mem
  /-- A disposed CORE is Stopped (R297). -/
  disposed : s.disposed = true → s.run = .stopped
  /-- The parameters are legal (R8, R221). -/
  config : s.config.Legal
  /-- A latched fault explains itself (R251, R256). -/
  latch : LatchExplained s

/-! ### Calls and returns in a row (R109) -/

/-- CALLs one after the other, each at its own address (site) and to its own target. -/
def callAll : List (Word × Addr) → State → Result
  | [], s => .next s
  | (site, nnn) :: more, s =>
    match exec (.call nnn) { s with pc := site } with
    | .next t => callAll more t
    | stop => stop

/-- n RETs, one after the other: the pc after each, and the state after the last. -/
def retAll : Nat → State → Option (List Word × State)
  | 0, s => some ([], s)
  | n + 1, s =>
    match exec .ret s with
    | .next t => (retAll n t).map (fun r => (t.pc :: r.1, r.2))
    | _ => none

/-! ### States that look the same -/

/-- Equal but for stack entries at or above SP (R27). -/
def SameButDeadStack (s t : State) : Prop :=
  t = { s with stack := t.stack } ∧ ∀ k, ∀ h : k < 16, k < s.sp.val → t.stack[k] = s.stack[k]

/-- Equal but for the upper 4 bits of I (R161). -/
def SameButHighIndex (s t : State) : Prop :=
  t = { s with i := t.i } ∧ t.i.toNat % 4096 = s.i.toNat % 4096

end Sys2Proof.Safety
end

