-- ==== Sys2Proof/Certificates/Slice0/Obligations.lean ====
section
/-! DEFINITION. The statements for the provers, from the numbered rules of spec/. Each instruction's
statement says which word decodes to it, that `exec` answers a next state, what that state holds, and
everything the instruction leaves unchanged. The word is the pattern the instruction's own rule names; the
patterns are the spec's decision D1, from general knowledge (log entry 5). "D<n>" below names a decision
of spec/92_eei_decisions.md, which is the spec's own choice; "log entry <n>" names a choice of the model.
The agenda and the schedule of a state, which say whose turn it is, are the model's own (log entry 2). -/


open Sys2Proof Sys2Proof.Machine Sys2Proof.Safety

/-! ### Encoding and decoding -/

/-- A few words written out from 30_encoding.md R75 decode to the instructions they stand for. Model's and
spec's choices: the patterns (D1), the 0nnn words (D2), the ignored low nibble of 5xyN (D3). -/
def Obligations.TableWordsDecode : Prop :=
  decodeTableWord 16 0x00E0 = some .cls ∧
  decodeTableWord 16 0x2FFF = some (.call 0xFFF) ∧
  decodeTableWord 16 0x5121 = some (.seReg 0x1 0x2 0x1) ∧
  decodeTableWord 16 0x8017 = some (.subn 0x0 0x1) ∧
  decodeTableWord 16 0xB123 = some (.jpV0 0x123) ∧
  decodeTableWord 16 0xDAB5 = some (.drw 0xA 0xB 0x5) ∧
  decodeTableWord 16 0xE0A1 = some (.sknp 0x0) ∧
  decodeTableWord 16 0xFF65 = some (.ldLoad 0xF) ∧
  decodeTableWord 16 0x8008 = none ∧
  decodeTableWord 16 0x0123 = none

/-- Decode after encode (R75, R76; patterns D1, low nibble D3): every well-formed instruction's bytes decode
to it and leave the rest. -/
def Obligations.DecodeOfEncode : Prop :=
  ∀ (strict : Bool) (i : Instr) (rest : List Byte), i.wellFormed strict = true →
    decodeBytes strict (encodeBytes i ++ rest) = .ok (i, rest)

/-- Encode after decode: a word that decodes is the word of the instruction it decodes to, which is
well-formed; so every word has at most one meaning and no bit of it is lost (R78; patterns D1, D3). -/
def Obligations.EncodeOfDecode : Prop :=
  ∀ (strict : Bool) (w : Word) (i : Instr), decodeWord strict w = .ok i →
    encode i = w ∧ i.wellFormed strict = true

/-- The words that do not decode are exactly the Unknown words of R77, with those STRICT_5_9 adds, and
each is refused as itself. The set of them rests on D1, D2 and D3. -/
def Obligations.UnknownWordsExactly : Prop :=
  ∀ (strict : Bool) (w : Word),
    (decodeWord strict w = .error (.unknown w) ↔ Unknown strict w) ∧
    ((∃ i, decodeWord strict w = .ok i) ↔ ¬ Unknown strict w)

/-! ### The cycle -/

/-- Fetch (R55, R70): big-endian, each address reduced mod 4096 (R52, the spec's D4). -/
def Obligations.FetchIsBigEndianAndWraps : Prop :=
  ∀ s : State, (fetchWord s).toNat
    = (readMem s (s.pc.toNat % 4096)).toNat * 256 + (readMem s ((s.pc.toNat + 1) % 4096)).toNat

/-- A step of the enabled core agent runs the decoded instruction: `exec` on the state whose turn is used up,
with nothing around it; where the core moves alone, that state is the state itself (R88, R271). How the
turns are held is the model's choice (log entry 2). -/
def Obligations.StepRunsDecodedInstruction : Prop :=
  ∀ (s : State) (i : Instr), CoreNext s → s.run = .running → s.latch = none →
    decodeWord s.config.strict59 (fetchWord s) = .ok i →
    step s = exec i (turnTaken s) ∧
    (s.agenda = [] → s.schedule = .coreAlone → step s = exec i s)

/-- An Unknown word at pc is not executed: the decode fault is latched with its address and the word
itself, and nothing else changes but the turn (R252, R255). The latch, its record and that taking the fault is
a next state are D14 (log entry 10), the Unknown words D2 and D3 (log entries 6, 17), the turn log entry 2. -/
def Obligations.UnknownWordTakesDecodeFault : Prop :=
  ∀ s : State, CoreNext s → s.run = .running → s.latch = none →
    Unknown s.config.strict59 (fetchWord s) →
    step s = .next { turnTaken s with latch := some ⟨.decode, s.pc, fetchWord s⟩ }

/-! ### Control flow -/

/-- JP nnn (R103). -/
def Obligations.JumpSetsPc : Prop :=
  ∀ (nnn : Addr) (s : State),
    decodeWord s.config.strict59 (wordNNN 0x1 nnn) = .ok (.jp nnn) ∧
    ∃ t, exec (.jp nnn) s = .next t ∧ t.pc.toNat = nnn.toNat ∧ ChangesOnly [] s t

/-- CALL nnn (R102): the push of its own address (D8) and the jump, or StackOverflow latched (D14) when
SP = 16. -/
def Obligations.CallPushesOwnAddress : Prop :=
  ∀ (nnn : Addr) (s : State),
    decodeWord s.config.strict59 (wordNNN 0x2 nnn) = .ok (.call nnn) ∧
    (s.sp.val < 16 → ∃ t, exec (.call nnn) s = .next t ∧ t.pc.toNat = nnn.toNat ∧
      t.sp.val = s.sp.val + 1 ∧
      (∀ k, ∀ h : k < 16, t.stack[k] = if k = s.sp.val then s.pc else s.stack[k]) ∧
      ChangesOnly [.stack] s t) ∧
    (s.sp.val = 16 → exec (.call nnn) s
      = .next { s with latch := some ⟨.stackOverflow, s.pc, wordNNN 0x2 nnn⟩ })

/-- RET (R101): resumes after the CALL whose address is popped (D8), or StackUnderflow latched (D14) when
SP = 0. -/
def Obligations.ReturnResumesAfterCall : Prop :=
  ∀ s : State,
    decodeWord s.config.strict59 0x00EE = .ok .ret ∧
    (∀ k, ∀ h : k < 16, s.sp.val = k + 1 → ∃ t, exec .ret s = .next t ∧ t.pc = s.stack[k] + 2 ∧
      t.sp.val = k ∧ t.stack = s.stack ∧ ChangesOnly [.stack] s t) ∧
    (s.sp.val = 0 → exec .ret s = .next { s with latch := some ⟨.stackUnderflow, s.pc, 0x00EE⟩ })

/-- JP V0,nnn (R108): always V0, the sum kept to 16 bits (D5). -/
def Obligations.IndexedJumpAddsV0 : Prop :=
  ∀ (nnn : Addr) (s : State),
    decodeWord s.config.strict59 (wordNNN 0xB nnn) = .ok (.jpV0 nnn) ∧
    ∃ t, exec (.jpV0 nnn) s = .next t ∧ t.pc.toNat = nnn.toNat + (readV s 0x0).toNat ∧
      ChangesOnly [] s t

/-- SE Vx,kk and SNE Vx,kk (R104, R105). -/
def Obligations.ImmediateSkips : Prop :=
  ∀ (x : Nibble) (kk : Byte) (s : State),
    decodeWord s.config.strict59 (wordXKK 0x3 x kk) = .ok (.seImm x kk) ∧
    decodeWord s.config.strict59 (wordXKK 0x4 x kk) = .ok (.sneImm x kk) ∧
    (∃ t, exec (.seImm x kk) s = .next t ∧
      t.pc = (if readV s x = kk then s.pc + 4 else s.pc + 2) ∧ ChangesOnly [] s t) ∧
    (∃ t, exec (.sneImm x kk) s = .next t ∧
      t.pc = (if readV s x = kk then s.pc + 2 else s.pc + 4) ∧ ChangesOnly [] s t)

/-- SE Vx,Vy and SNE Vx,Vy (R106, R107) for every low nibble the decoder admits (R80, D3). -/
def Obligations.RegisterSkips : Prop :=
  ∀ (x y low : Nibble) (s : State),
    ((s.config.strict59 = false ∨ low = 0) →
      decodeWord s.config.strict59 (wordXYN 0x5 x y low) = .ok (.seReg x y low) ∧
      decodeWord s.config.strict59 (wordXYN 0x9 x y low) = .ok (.sneReg x y low)) ∧
    (∃ t, exec (.seReg x y low) s = .next t ∧
      t.pc = (if readV s x = readV s y then s.pc + 4 else s.pc + 2) ∧ ChangesOnly [] s t) ∧
    (∃ t, exec (.sneReg x y low) s = .next t ∧
      t.pc = (if readV s x = readV s y then s.pc + 2 else s.pc + 4) ∧ ChangesOnly [] s t)

/-- CALL and RET in a row (R109): up to 16 CALLs from an empty stack, each at any 16-bit address and to any
target, then as many RETs, resume after the CALLs in reverse order, leave SP = 0 and raise no fault. -/
def Obligations.StackRoundTrip : Prop :=
  ∀ (calls : List (Word × Addr)) (s : State), s.sp.val = 0 → calls.length ≤ 16 →
    ∃ t u, callAll calls s = .next t ∧ t.sp.val = calls.length ∧ t.latch = s.latch ∧
      retAll calls.length t = some ((calls.map (fun c => c.1 + 2)).reverse, u) ∧
      u.sp.val = 0 ∧ u.latch = s.latch

/-! ### Register loads, ALU and random -/

/-- LD Vx,kk (R131). -/
def Obligations.LoadImmediate : Prop :=
  ∀ (x : Nibble) (kk : Byte) (s : State),
    decodeWord s.config.strict59 (wordXKK 0x6 x kk) = .ok (.ldImm x kk) ∧
    ∃ t, exec (.ldImm x kk) s = .next t ∧ readV t x = kk ∧ RegsKeptBut [x] s t ∧
      t.pc = s.pc + 2 ∧ ChangesOnly [.registers] s t

/-- ADD Vx,kk (R132): mod 256, no flag. -/
def Obligations.AddImmediateWrapsWithoutFlag : Prop :=
  ∀ (x : Nibble) (kk : Byte) (s : State),
    decodeWord s.config.strict59 (wordXKK 0x7 x kk) = .ok (.addImm x kk) ∧
    ∃ t, exec (.addImm x kk) s = .next t ∧
      (readV t x).toNat = ((readV s x).toNat + kk.toNat) % 256 ∧ RegsKeptBut [x] s t ∧
      t.pc = s.pc + 2 ∧ ChangesOnly [.registers] s t

/-- LD, OR, AND and XOR Vx,Vy (R133–R136): no flag, VF is an ordinary register. -/
def Obligations.CopyAndLogicWriteNoFlag : Prop :=
  ∀ (x y : Nibble) (s : State),
    (decodeWord s.config.strict59 (wordXYN 0x8 x y 0x0) = .ok (.ldReg x y) ∧
      ∃ t, exec (.ldReg x y) s = .next t ∧ readV t x = readV s y ∧ RegsKeptBut [x] s t ∧
        t.pc = s.pc + 2 ∧ ChangesOnly [.registers] s t) ∧
    (decodeWord s.config.strict59 (wordXYN 0x8 x y 0x1) = .ok (.orReg x y) ∧
      ∃ t, exec (.orReg x y) s = .next t ∧ readV t x = readV s x ||| readV s y ∧
        RegsKeptBut [x] s t ∧ t.pc = s.pc + 2 ∧ ChangesOnly [.registers] s t) ∧
    (decodeWord s.config.strict59 (wordXYN 0x8 x y 0x2) = .ok (.andReg x y) ∧
      ∃ t, exec (.andReg x y) s = .next t ∧ readV t x = readV s x &&& readV s y ∧
        RegsKeptBut [x] s t ∧ t.pc = s.pc + 2 ∧ ChangesOnly [.registers] s t) ∧
    (decodeWord s.config.strict59 (wordXYN 0x8 x y 0x3) = .ok (.xorReg x y) ∧
      ∃ t, exec (.xorReg x y) s = .next t ∧ readV t x = readV s x ^^^ readV s y ∧
        RegsKeptBut [x] s t ∧ t.pc = s.pc + 2 ∧ ChangesOnly [.registers] s t)

/-- ADD Vx,Vy (R137): the sum mod 256, carry when it exceeds 255; the write order is D9 (R130). -/
def Obligations.AddWritesCarry : Prop :=
  ∀ (x y : Nibble) (s : State),
    decodeWord s.config.strict59 (wordXYN 0x8 x y 0x4) = .ok (.addReg x y) ∧
    ∃ t, exec (.addReg x y) s = .next t ∧
      FlagRule (fun a b => (a + b) % 256) (fun a b => decide (a + b > 255)) x y s t ∧
      t.pc = s.pc + 2 ∧ ChangesOnly [.registers] s t

/-- SUB Vx,Vy (R138): Vx − Vy mod 256, the flag when Vx is strictly greater; write order D9 (R130). -/
def Obligations.SubWritesStrictGreater : Prop :=
  ∀ (x y : Nibble) (s : State),
    decodeWord s.config.strict59 (wordXYN 0x8 x y 0x5) = .ok (.sub x y) ∧
    ∃ t, exec (.sub x y) s = .next t ∧
      FlagRule (fun a b => (256 + a - b) % 256) (fun a b => decide (a > b)) x y s t ∧
      t.pc = s.pc + 2 ∧ ChangesOnly [.registers] s t

/-- SUBN Vx,Vy (R140): Vy − Vx mod 256, the flag when Vy is strictly greater (that it writes VF is D10);
write order D9 (R130). -/
def Obligations.SubnWritesStrictGreater : Prop :=
  ∀ (x y : Nibble) (s : State),
    decodeWord s.config.strict59 (wordXYN 0x8 x y 0x7) = .ok (.subn x y) ∧
    ∃ t, exec (.subn x y) s = .next t ∧
      FlagRule (fun a b => (256 + b - a) % 256) (fun a b => decide (b > a)) x y s t ∧
      t.pc = s.pc + 2 ∧ ChangesOnly [.registers] s t

/-- SHR Vx,Vy (R139): half of Vx (of Vy under SHIFT_SOURCE = y, D11), the flag bit 0 of Vy; write order D9
(R130). -/
def Obligations.ShiftRightFlagFromVy : Prop :=
  ∀ (x y : Nibble) (s : State),
    decodeWord s.config.strict59 (wordXYN 0x8 x y 0x6) = .ok (.shr x y) ∧
    ∃ t, exec (.shr x y) s = .next t ∧
      FlagRule (fun a b => (if s.config.shiftSource = .x then a else b) / 2)
        (fun _ b => decide (b % 2 = 1)) x y s t ∧
      t.pc = s.pc + 2 ∧ ChangesOnly [.registers] s t

/-- SHL Vx,Vy (R141): twice Vx (Vy under SHIFT_SOURCE = y, D11) mod 256, the flag bit 7 of Vy; write order
D9 (R130). -/
def Obligations.ShiftLeftFlagFromVy : Prop :=
  ∀ (x y : Nibble) (s : State),
    decodeWord s.config.strict59 (wordXYN 0x8 x y 0xE) = .ok (.shl x y) ∧
    ∃ t, exec (.shl x y) s = .next t ∧
      FlagRule (fun a b => (if s.config.shiftSource = .x then a else b) * 2 % 256)
        (fun _ b => decide (b / 128 = 1)) x y s t ∧
      t.pc = s.pc + 2 ∧ ChangesOnly [.registers] s t

/-- RND Vx,kk (R145, D20): a drawn byte AND kk; the draw is a free value, used up once (log entry 3): the
statement holds whatever byte it is. -/
def Obligations.RandomIsDrawAndMask : Prop :=
  ∀ (x : Nibble) (kk : Byte) (s : State),
    decodeWord s.config.strict59 (wordXKK 0xC x kk) = .ok (.rnd x kk) ∧
    ∃ t, exec (.rnd x kk) s = .next t ∧ readV t x = Config.draw s.draws &&& kk ∧
      RegsKeptBut [x] s t ∧ t.draws = s.draws + 1 ∧ t.pc = s.pc + 2 ∧
      ChangesOnly [.registers, .draws] s t

/-! ### The index register and memory -/

/-- LD I,nnn (R160). -/
def Obligations.SetIndex : Prop :=
  ∀ (nnn : Addr) (s : State),
    decodeWord s.config.strict59 (wordNNN 0xA nnn) = .ok (.ldI nnn) ∧
    ∃ t, exec (.ldI nnn) s = .next t ∧ t.i.toNat = nnn.toNat ∧ t.pc = s.pc + 2 ∧
      ChangesOnly [.index] s t

/-- ADD I,Vx (R161): mod 2^16, VF not written (D6). -/
def Obligations.AddIndexWrapsWithoutFlag : Prop :=
  ∀ (x : Nibble) (s : State),
    decodeWord s.config.strict59 (wordXKK 0xF x 0x1E) = .ok (.addI x) ∧
    ∃ t, exec (.addI x) s = .next t ∧ t.i.toNat = (s.i.toNat + (readV s x).toNat) % 65536 ∧
      t.pc = s.pc + 2 ∧ ChangesOnly [.index] s t

/-- LD F,Vx (R162): 5 times the low nibble of Vx. -/
def Obligations.GlyphAddress : Prop :=
  ∀ (x : Nibble) (s : State),
    decodeWord s.config.strict59 (wordXKK 0xF x 0x29) = .ok (.ldF x) ∧
    ∃ t, exec (.ldF x) s = .next t ∧ t.i.toNat = (readV s x).toNat % 16 * 5 ∧
      t.pc = s.pc + 2 ∧ ChangesOnly [.index] s t

/-- LD B,Vx (R163): the three digits at I, I + 1, I + 2, each address reduced mod 4096 by itself (R53, D4, log
entry 7), I kept (D7, log entry 18). -/
def Obligations.StoreBcdDigits : Prop :=
  ∀ (x : Nibble) (s : State),
    decodeWord s.config.strict59 (wordXKK 0xF x 0x33) = .ok (.ldB x) ∧
    ∃ t, exec (.ldB x) s = .next t ∧
      (readMem t (dataAddr s 0)).toNat = (readV s x).toNat / 100 ∧
      (readMem t (dataAddr s 1)).toNat = (readV s x).toNat / 10 % 10 ∧
      (readMem t (dataAddr s 2)).toNat = (readV s x).toNat % 10 ∧
      BytesKeptBut (dataAddr s 0) 3 s t ∧ t.pc = s.pc + 2 ∧ ChangesOnly [.memory] s t

/-- LD [I],Vx (R164, R166): V0..V(x−1) at I on, x excluded, I kept (D7). -/
def Obligations.StoreRegistersExclusive : Prop :=
  ∀ (x : Nibble) (s : State),
    decodeWord s.config.strict59 (wordXKK 0xF x 0x55) = .ok (.ldStore x) ∧
    ∃ t, exec (.ldStore x) s = .next t ∧
      (∀ r : Nibble, r.toNat < x.toNat → readMem t (dataAddr s r.toNat) = readV s r) ∧
      BytesKeptBut (dataAddr s 0) x.toNat s t ∧ t.pc = s.pc + 2 ∧ ChangesOnly [.memory] s t

/-- LD Vx,[I] (R165, R166): V0..V(x−1) from I on, x excluded, I kept (D7). -/
def Obligations.LoadRegistersExclusive : Prop :=
  ∀ (x : Nibble) (s : State),
    decodeWord s.config.strict59 (wordXKK 0xF x 0x65) = .ok (.ldLoad x) ∧
    ∃ t, exec (.ldLoad x) s = .next t ∧
      (∀ r : Nibble, readV t r
        = if r.toNat < x.toNat then readMem s (dataAddr s r.toNat) else readV s r) ∧
      t.pc = s.pc + 2 ∧ ChangesOnly [.registers] s t

/-- A store is seen by the very next fetch (R61, D24): LD [I],Vx over the word that follows it. -/
def Obligations.StoreSeenByNextFetch : Prop :=
  ∀ (x : Nibble) (s : State), 2 ≤ x.toNat → dataAddr s 0 % 4096 = (s.pc.toNat + 2) % 4096 →
    ∃ t, exec (.ldStore x) s = .next t ∧ fetchWord t = wordOfBytes (readV s 0x0) (readV s 0x1)

/-! ### Display -/

/-- CLS (R190): every cell off and one notification. -/
def Obligations.ClearScreen : Prop :=
  ∀ s : State,
    decodeWord s.config.strict59 0x00E0 = .ok .cls ∧
    ∃ t, exec .cls s = .next t ∧ (∀ cx cy, Display.cell t.display cx cy = false) ∧
      t.events = s.events ++ [.screenUpdated] ∧ t.pc = s.pc + 2 ∧
      ChangesOnly [.display, .events] s t

/-- DRW Vx,Vy,n (R191, R194, R195): a cell is inverted exactly when a set sprite bit lands on it; VF is 1
when one landed on a lit cell, else 0; one notification. The bit order is D16, the sizes D17, the reading of
the origin before VF is written D28, one event per DRW D25. -/
def Obligations.DrawXorsSpriteAndReportsCollision : Prop :=
  ∀ (x y n : Nibble) (s : State),
    decodeWord s.config.strict59 (wordXYN 0xD x y n) = .ok (.drw x y n) ∧
    ∃ t, exec (.drw x y n) s = .next t ∧
      (∀ cx cy, cx < 64 → cy < 32 →
        (SpriteCovers s x y n cx cy → Display.cell t.display cx cy = !Display.cell s.display cx cy) ∧
        (¬ SpriteCovers s x y n cx cy → Display.cell t.display cx cy = Display.cell s.display cx cy)) ∧
      ((∃ cx cy, SpriteCovers s x y n cx cy ∧ Display.cell s.display cx cy = true) → readV t 0xF = 1) ∧
      ((¬ ∃ cx cy, SpriteCovers s x y n cx cy ∧ Display.cell s.display cx cy = true) → readV t 0xF = 0) ∧
      RegsKeptBut [0xF] s t ∧ t.events = s.events ++ [.screenUpdated] ∧ t.pc = s.pc + 2 ∧
      ChangesOnly [.registers, .display, .events] s t

/-- The same sprite drawn twice at the same origin restores the grid; against a blank grid the first
draw does not collide, and the second does exactly when the sprite has a set bit (R191, R194; sizes D17). -/
def Obligations.DrawTwiceRestores : Prop :=
  ∀ (d : Display) (sprite : List Byte) (ox oy : Nat), sprite.length ≤ 15 →
    (drawSprite (drawSprite d sprite ox oy).grid sprite ox oy).grid = d ∧
    (drawSprite clearedDisplay sprite ox oy).collided = false ∧
    ((drawSprite (drawSprite clearedDisplay sprite ox oy).grid sprite ox oy).collided = true ↔
      ∃ b ∈ sprite, b ≠ 0)

/-! ### Keys and timers -/

/-- SKP and SKNP (R222, R223): the full byte Vx is compared with the lowest pressed key; with no key
pressed, with NO_KEY (R220, R221, D12). -/
def Obligations.KeySkipsCompareLowestKey : Prop :=
  ∀ (x : Nibble) (s : State),
    decodeWord s.config.strict59 (wordXKK 0xE x 0x9E) = .ok (.skp x) ∧
    decodeWord s.config.strict59 (wordXKK 0xE x 0xA1) = .ok (.sknp x) ∧
    (∀ k, LowestPressed s k →
      (∃ t, exec (.skp x) s = .next t ∧
        t.pc = (if (readV s x).toNat = k then s.pc + 4 else s.pc + 2) ∧ ChangesOnly [] s t) ∧
      (∃ t, exec (.sknp x) s = .next t ∧
        t.pc = (if (readV s x).toNat = k then s.pc + 2 else s.pc + 4) ∧ ChangesOnly [] s t)) ∧
    (NoKeyPressed s →
      (∃ t, exec (.skp x) s = .next t ∧
        t.pc = (if s.config.noKey = .byte (readV s x) then s.pc + 4 else s.pc + 2) ∧ ChangesOnly [] s t) ∧
      (∃ t, exec (.sknp x) s = .next t ∧
        t.pc = (if s.config.noKey = .byte (readV s x) then s.pc + 2 else s.pc + 4) ∧ ChangesOnly [] s t))

/-- LD Vx,K: in block mode (R225) the lowest pressed key, or a hold that changes nothing (R226); in stub
mode (R227) a drawn byte at once, whatever the keys. The two modes are D13; the draw is a free value (log
entries 3, 4): the statement holds whatever byte it is. -/
def Obligations.KeyWaitBlocksOrDraws : Prop :=
  ∀ (x : Nibble) (s : State),
    decodeWord s.config.strict59 (wordXKK 0xF x 0x0A) = .ok (.ldVxK x) ∧
    (s.config.keyWait = .block → ∀ k, LowestPressed s k →
      ∃ t, exec (.ldVxK x) s = .next t ∧ (readV t x).toNat = k ∧ RegsKeptBut [x] s t ∧
        t.pc = s.pc + 2 ∧ ChangesOnly [.registers] s t) ∧
    (s.config.keyWait = .block → NoKeyPressed s → exec (.ldVxK x) s = .next s) ∧
    (s.config.keyWait = .stub →
      ∃ t, exec (.ldVxK x) s = .next t ∧ readV t x = Config.draw s.draws ∧ RegsKeptBut [x] s t ∧
        t.draws = s.draws + 1 ∧ t.pc = s.pc + 2 ∧ ChangesOnly [.registers, .draws] s t)

/-- LD Vx,DT, LD DT,Vx and LD ST,Vx (R230, R231, R232). -/
def Obligations.TimerInstructions : Prop :=
  ∀ (x : Nibble) (s : State),
    (decodeWord s.config.strict59 (wordXKK 0xF x 0x07) = .ok (.ldVxDT x) ∧
      ∃ t, exec (.ldVxDT x) s = .next t ∧ readV t x = s.dt ∧ RegsKeptBut [x] s t ∧
        t.pc = s.pc + 2 ∧ ChangesOnly [.registers] s t) ∧
    (decodeWord s.config.strict59 (wordXKK 0xF x 0x15) = .ok (.ldDTVx x) ∧
      ∃ t, exec (.ldDTVx x) s = .next t ∧ t.dt = readV s x ∧ t.pc = s.pc + 2 ∧
        ChangesOnly [.delayTimer] s t) ∧
    (decodeWord s.config.strict59 (wordXKK 0xF x 0x18) = .ok (.ldSTVx x) ∧
      ∃ t, exec (.ldSTVx x) s = .next t ∧ t.st = readV s x ∧ t.pc = s.pc + 2 ∧
        (soundOn t = true ↔ readV s x ≠ 0) ∧ ChangesOnly [.soundTimer] s t)

/-- A tick (R236): one off each timer that is not zero, and nothing else but its own turn. When the timer agent
is enabled is R272 (D14); how turns are held and used up is the model's choice (log entry 2). -/
def Obligations.TickCountsDown : Prop :=
  ∀ s : State, TimerTicks s → ∃ t, step s = .next t ∧
    t.st.toNat = (if s.st = 0 then 0 else s.st.toNat - 1) ∧
    t.dt.toNat = (if s.dt = 0 then 0 else s.dt.toNat - 1) ∧
    t.pc = s.pc ∧ ChangesOnly [.delayTimer, .soundTimer] (turnTaken s) t

/-- Timer decay (R239): N ticks in a row take each timer from t to max(0, t − N). When the timer agent is
enabled is R272 (D14); that the ticks are listed turns is the model's choice (log entry 2). -/
def Obligations.TimerDecay : Prop :=
  ∀ (n : Nat) (rest : List AgentEvent) (s : State), s.run = .running → s.latch = none →
    s.agenda = List.replicate n .tick ++ rest →
    ∃ t, Sys2Proof.core.run n s = .next t ∧ t.st.toNat = s.st.toNat - n ∧
      t.dt.toNat = s.dt.toNat - n ∧ t.pc = s.pc ∧ t.agenda = rest ∧
      ChangesOnly [.delayTimer, .soundTimer, .agenda] s t

/-! ### Whole-machine rules -/

/-- The invariant: canonical memory, a disposed CORE Stopped, legal parameters, a latched fault that
explains itself (R251, R256, D14). That a disposed CORE is Stopped rests on log entry 13. Every step keeps
it. -/
def Obligations.EveryStepKeepsInv : Prop :=
  ∀ s t : State, Inv s → step s = .next t → Inv t

/-- The invariant holds right after construction (R292). -/
def Obligations.ResetMeetsInv : Prop := Inv State.reset

/-- No instruction stops the model: each answers a next state in every state; a step refuses nothing, and stops
only at a dead end: a fault is latched and nobody but the core would move again (R252, D14; that it stops
there is log entry 10). A free schedule never runs out: each turn on it, whoever's, answers a next state with
the next free turn to come, so any number of ticks comes between two instructions, without end (R238, R270,
log entry 2). -/
def Obligations.OnlyLatchedMachineStops : Prop :=
  (∀ (i : Instr) (s : State), ∃ t, exec i s = .next t) ∧
  (∀ (s : State) (r : Refusal), step s ≠ .refused r) ∧
  (∀ (s : State), (∃ f, step s = .fault f) ↔ AtDeadEnd s) ∧
  (∀ (s : State) (k : Nat), s.agenda = [] → s.schedule = .free k →
    step s = performEvent (Config.turn k) { s with schedule := .free (k + 1) } ∧
    ∃ t, step s = .next t ∧ t.agenda = [] ∧ t.schedule = .free (k + 1))

/-- Faults are precise (R256): an instruction that latches a fault changes nothing else; only RET on an
empty stack and CALL on a full one do, each its own kind (R257). The latch is D14. -/
def Obligations.FaultsArePrecise : Prop :=
  ∀ (i : Instr) (s t : State), exec i s = .next t → t.latch ≠ s.latch →
    t = { s with latch := t.latch } ∧
    ((i = .ret ∧ s.sp.val = 0 ∧ t.latch = some ⟨.stackUnderflow, s.pc, 0x00EE⟩) ∨
     (∃ nnn, i = .call nnn ∧ s.sp.val = 16 ∧ t.latch = some ⟨.stackOverflow, s.pc, encode i⟩))

/-- Neither the core agent nor the timer agent steps while Stopped or while a fault is latched (R271,
R272, D14). That its turn passes, with nothing else changed, is the model's choice (log entries 11, 24); the
dead end, where the machine stops, is `Obligations.OnlyLatchedMachineStops`. -/
def Obligations.DisabledAgentsDoNothing : Prop :=
  ∀ s : State, turnNow s = .core ∨ turnNow s = .tick → s.run = .stopped ∨ s.latch ≠ none →
    ¬ AtDeadEnd s → step s = .next (turnTaken s)

/-- Only the host's load clears or replaces a latched fault (R36, R259, D14). -/
def Obligations.OnlyLoadClearsLatch : Prop :=
  ∀ (s t : State) (r : FaultRecord), s.latch = some r → step s = .next t → t.latch ≠ some r →
    ∃ image, HostCalls s (.load image)

/-- Only LD B,Vx, LD [I],Vx and the host's load write memory (R54, R59; stores unprotected, D23). -/
def Obligations.MemoryWriters : Prop :=
  ∀ (s t : State) (a : Nat), step s = .next t → readMem t a ≠ readMem s a →
    (∃ x, CoreRuns s (.ldB x)) ∨ (∃ x, CoreRuns s (.ldStore x)) ∨ (∃ image, HostCalls s (.load image))

/-- Only CLS, DRW and the reset in load change the display (R28, D17). -/
def Obligations.DisplayWriters : Prop :=
  ∀ (s t : State) (cx cy : Nat), step s = .next t →
    Display.cell t.display cx cy ≠ Display.cell s.display cx cy →
    CoreRuns s .cls ∨ (∃ x y n, CoreRuns s (.drw x y n)) ∨ (∃ image, HostCalls s (.load image))

/-- Only setKey changes the key state (R30), only start, stop, dispose and load the run state (R37), and
no step changes the parameters (R8). The run state is D22; that the state carries the parameters is the
model's choice (log entry 1). -/
def Obligations.HostOwnsKeysAndRunState : Prop :=
  ∀ s t : State, step s = .next t →
    (t.keys ≠ s.keys → ∃ k p, HostCalls s (.setKey k p)) ∧
    (t.run ≠ s.run → HostCalls s .start ∨ HostCalls s .stop ∨ HostCalls s .dispose ∨
      ∃ image, HostCalls s (.load image)) ∧
    t.config = s.config

/-- Only LD DT,Vx, ticks and load change DT; only LD ST,Vx, ticks and load change ST (R29). -/
def Obligations.TimerWriters : Prop :=
  ∀ s t : State, step s = .next t →
    (t.dt ≠ s.dt → (∃ x, CoreRuns s (.ldDTVx x)) ∨ TimerTicks s ∨ ∃ image, HostCalls s (.load image)) ∧
    (t.st ≠ s.st → (∃ x, CoreRuns s (.ldSTVx x)) ∨ TimerTicks s ∨ ∃ image, HostCalls s (.load image))

/-- No instruction reads ST (R29): run with another value of it, an instruction does the same and leaves
that value, and LD ST,Vx, which overwrites it, does the very same. -/
def Obligations.NoInstructionReadsSoundTimer : Prop :=
  ∀ (i : Instr) (s t : State) (b : Byte), exec i s = .next t →
    ((∀ x, i ≠ .ldSTVx x) → exec i { s with st := b } = .next { t with st := b }) ∧
    (∀ x, i = .ldSTVx x → exec i { s with st := b } = .next t)

/-- Only SKP, SKNP and LD Vx,K read the keys (R30). -/
def Obligations.OnlyKeyInstructionsReadKeys : Prop :=
  ∀ (i : Instr) (s t : State) (keys : Vector Bool 16), (∀ x, i ≠ .skp x ∧ i ≠ .sknp x ∧ i ≠ .ldVxK x) →
    exec i s = .next t → exec i { s with keys := keys } = .next { t with keys := keys }

/-- A stack entry at or above SP is not observable (R27): two states that differ only there step alike,
and again differ only there. The layout of the stack is D8. -/
def Obligations.DeadStackEntriesUnobservable : Prop :=
  ∀ s t : State, SameButDeadStack s t →
    (∀ s', step s = .next s' → ∃ t', step t = .next t' ∧ SameButDeadStack s' t') ∧
    (∀ f, step s = .fault f → step t = .fault f)

/-- The upper 4 bits of I are not observable (R161): two states that differ only there step alike, and
again differ only there. The wrap is D6. -/
def Obligations.HighIndexBitsUnobservable : Prop :=
  ∀ s t : State, SameButHighIndex s t →
    (∀ s', step s = .next s' → ∃ t', step t = .next t' ∧ SameButHighIndex s' t') ∧
    (∀ f, step s = .fault f → step t = .fault f)

/-- A self-jump runs for ever (R103, R281, D32): the core's step at one changes nothing but its own turn
(turns: log entry 2; when the core agent is enabled: R271, D14). -/
def Obligations.SelfJumpIsTheEnd : Prop :=
  ∀ s : State, CoreNext s → s.run = .running → s.latch = none → AtSelfJump s →
    step s = .next (turnTaken s)

/-! ### Reset and the host's calls -/

/-- The state after construction (R38, R292): every value the spec gives. The clauses on I and the stack
entries are the spec's D21, on the keys D19, on the latch D14, on the run state D22, on the events D25. -/
def Obligations.ResetValues : Prop :=
  (∀ r, readV State.reset r = 0) ∧ State.reset.pc = 0x200 ∧ State.reset.i = 0 ∧
  State.reset.sp.val = 0 ∧ (∀ k, ∀ h : k < 16, State.reset.stack[k] = 0) ∧
  State.reset.dt = 0 ∧ State.reset.st = 0 ∧ (∀ cx cy, Display.cell State.reset.display cx cy = false) ∧
  (∀ a, 0x050 ≤ a → a < 0x1000 → readMem State.reset a = 0) ∧
  (∀ k, ∀ h : k < 16, State.reset.keys[k] = false) ∧ State.reset.latch = none ∧
  State.reset.run = .stopped ∧ State.reset.events = []

/-- The glyph table at reset (R199): digit by digit, the spec's default bytes (G3, D15: the spec's own,
from general knowledge). -/
def Obligations.GlyphTableAtReset : Prop :=
  (List.range 16).map (fun d => Memory.readBytes State.reset.mem (5 * d) 5) =
    [[0xF0, 0x90, 0x90, 0x90, 0xF0], [0x20, 0x60, 0x20, 0x20, 0x70], [0xF0, 0x10, 0xF0, 0x80, 0xF0],
     [0xF0, 0x10, 0xF0, 0x10, 0xF0], [0x90, 0x90, 0xF0, 0x10, 0x10], [0xF0, 0x80, 0xF0, 0x10, 0xF0],
     [0xF0, 0x80, 0xF0, 0x90, 0xF0], [0xF0, 0x10, 0x20, 0x40, 0x40], [0xF0, 0x90, 0xF0, 0x90, 0xF0],
     [0xF0, 0x90, 0xF0, 0x10, 0xF0], [0xF0, 0x90, 0xF0, 0x90, 0x90], [0xE0, 0x90, 0xE0, 0x90, 0xE0],
     [0xF0, 0x80, 0x80, 0x80, 0xF0], [0xE0, 0x90, 0x90, 0x90, 0xE0], [0xF0, 0x80, 0xF0, 0x80, 0xF0],
     [0xF0, 0x80, 0xF0, 0x80, 0x80]]

/-- Reset is idempotent (R291), leaves the keys (D19), the run state (D22) and the events (D25), and sets the
registers, pc and memory to what construction gives (R290). -/
def Obligations.ResetIsIdempotent : Prop :=
  ∀ s : State, resetMachine (resetMachine s) = resetMachine s ∧
    (resetMachine s).keys = s.keys ∧ (resetMachine s).run = s.run ∧ (resetMachine s).events = s.events ∧
    (∀ r, readV (resetMachine s) r = 0) ∧ (resetMachine s).pc = 0x200 ∧
    (∀ a, readMem (resetMachine s) a = readMem State.reset a)

/-- load (R293, R294): stops, resets and copies the image, cut off at the memory bound, into the program
region; keys, events and every other turn to come stay (turns: log entry 2). The values of I and the stack
entries are D21, that the keys stay is D19, that load leaves it Stopped and clears the latch is D22 and D14
(R37, R38). -/
def Obligations.LoadResetsAndCopiesImage : Prop :=
  ∀ (image : List Byte) (s : State), HostCalls s (.load image) →
    ∃ t, step s = .next t ∧ t.run = .stopped ∧ t.latch = none ∧ t.pc = 0x200 ∧ t.i = 0 ∧
      t.sp.val = 0 ∧ (∀ k, ∀ h : k < 16, t.stack[k] = 0) ∧ (∀ r, readV t r = 0) ∧
      t.dt = 0 ∧ t.st = 0 ∧ (∀ cx cy, Display.cell t.display cx cy = false) ∧
      (∀ a, a < 0x200 → readMem t a = readMem State.reset a) ∧
      (∀ k, 0x200 + k < 0x1000 → readMem t (0x200 + k) = image.getD k 0) ∧
      ChangesOnly [.registers, .index, .stack, .delayTimer, .soundTimer, .memory, .display, .latch,
        .runState] (turnTaken s) t

/-- start, stop, setKey and dispose (R295, R296, R273, R297): each changes what it names and nothing else
but its own turn, which is used up (log entry 2); start does nothing while a fault is latched (D14, D22);
after dispose no call is taken: that such a call passes without effect is the model's choice (log entry 13). -/
def Obligations.LifecycleCalls : Prop :=
  ∀ s : State,
    (HostCalls s .start →
      step s = .next { turnTaken s with run := if s.latch = none then .running else s.run }) ∧
    (HostCalls s .stop → step s = .next { turnTaken s with run := .stopped }) ∧
    (HostCalls s .dispose → step s = .next { turnTaken s with run := .stopped, disposed := true }) ∧
    (∀ (key : Fin 16) (p : Bool), HostCalls s (.setKey key p) → ∃ t, step s = .next t ∧
      (∀ k, ∀ h : k < 16, t.keys[k] = if k = key.val then p else s.keys[k]) ∧
      t.pc = s.pc ∧ ChangesOnly [.keys] (turnTaken s) t) ∧
    (∀ c, s.disposed = true → turnNow s = .host c → step s = .next (turnTaken s))

/-- Starting without a program (R300): from construction, the host's start and one core step latch the
decode fault at 0x200 with the word 0x0000 (that it is Unknown is D2, the latch D14; the two
listed turns are log entry 2). -/
def Obligations.StartWithoutProgramFaults : Prop :=
  Sys2Proof.core.run 2 { State.reset with agenda := [.host .start, .core] }
    = .next { State.reset with run := .running, latch := some ⟨.decode, 0x200, 0x0000⟩ }

/-- What the host reads (R277): the grid, the events, the sound output ST ≠ 0 and the latch; the fault
codes of R251 (D14; the image as the grid D30; the sound output D31). -/
def Obligations.HostReads : Prop :=
  (∀ s : State, (∀ cx cy, Display.cell (outputs s).image cx cy = Display.cell s.display cx cy) ∧
    (outputs s).events = s.events ∧ ((outputs s).sound = true ↔ s.st ≠ 0) ∧ (outputs s).latch = s.latch) ∧
  FaultKind.code .stackUnderflow = 1 ∧ FaultKind.code .stackOverflow = 2 ∧ FaultKind.code .decode = 3
end

