-- ==== Sys2Proof/Laws/Decode.lean ====
section
/-! SUPPORT. The fields of a composed word, the bytes of a word, and what the decoder's guards say. -/

namespace Sys2Proof.Laws

/-- Concatenation as arithmetic: the left part is shifted past the right part. -/
theorem toNat_append_eq {n m : Nat} (x : BitVec n) (y : BitVec m) :
    (x ++ y).toNat = x.toNat * 2 ^ m + y.toNat := by
  rw [BitVec.toNat_append, ← Nat.shiftLeft_add_eq_or_of_lt y.isLt, Nat.shiftLeft_eq]

/-- A field of a word as arithmetic. -/
theorem toNat_field {n : Nat} (w : BitVec n) (lo len : Nat) :
    (w.extractLsb' lo len).toNat = w.toNat / 2 ^ lo % 2 ^ len := by
  simp [Nat.shiftRight_eq_div_pow]

/-- The value of a word of shape op nnn. -/
theorem toNat_wordNNN (op : Nibble) (a : Addr) : (wordNNN op a).toNat = op.toNat * 4096 + a.toNat :=
  toNat_append_eq op a

/-- The value of a word of shape op x kk. -/
theorem toNat_wordXKK (op x : Nibble) (kk : Byte) :
    (wordXKK op x kk).toNat = (op.toNat * 16 + x.toNat) * 256 + kk.toNat := by
  rw [wordXKK, toNat_append_eq, toNat_append_eq]
  rfl

/-- The value of a word of shape op x y n. -/
theorem toNat_wordXYN (op x y n : Nibble) :
    (wordXYN op x y n).toNat = (op.toNat * 16 + x.toNat) * 256 + (y.toNat * 16 + n.toNat) := by
  rw [wordXYN, toNat_append_eq, toNat_append_eq, toNat_append_eq]
  rfl

/-! ### Fields of composed words (R72, R74) -/

@[simp] theorem opField_wordNNN (op : Nibble) (a : Addr) : opField (wordNNN op a) = op := by
  apply BitVec.eq_of_toNat_eq
  rw [opField, toNat_field, toNat_wordNNN]
  omega

@[simp] theorem nnnField_wordNNN (op : Nibble) (a : Addr) : nnnField (wordNNN op a) = a := by
  apply BitVec.eq_of_toNat_eq
  rw [nnnField, toNat_field, toNat_wordNNN]
  omega

@[simp] theorem opField_wordXKK (op x : Nibble) (kk : Byte) : opField (wordXKK op x kk) = op := by
  apply BitVec.eq_of_toNat_eq
  rw [opField, toNat_field, toNat_wordXKK]
  omega

@[simp] theorem xField_wordXKK (op x : Nibble) (kk : Byte) : xField (wordXKK op x kk) = x := by
  apply BitVec.eq_of_toNat_eq
  rw [xField, toNat_field, toNat_wordXKK]
  omega

@[simp] theorem kkField_wordXKK (op x : Nibble) (kk : Byte) : kkField (wordXKK op x kk) = kk := by
  apply BitVec.eq_of_toNat_eq
  rw [kkField, toNat_field, toNat_wordXKK]
  omega

@[simp] theorem opField_wordXYN (op x y n : Nibble) : opField (wordXYN op x y n) = op := by
  apply BitVec.eq_of_toNat_eq
  rw [opField, toNat_field, toNat_wordXYN]
  omega

@[simp] theorem xField_wordXYN (op x y n : Nibble) : xField (wordXYN op x y n) = x := by
  apply BitVec.eq_of_toNat_eq
  rw [xField, toNat_field, toNat_wordXYN]
  omega

@[simp] theorem yField_wordXYN (op x y n : Nibble) : yField (wordXYN op x y n) = y := by
  apply BitVec.eq_of_toNat_eq
  rw [yField, toNat_field, toNat_wordXYN]
  omega

@[simp] theorem nField_wordXYN (op x y n : Nibble) : nField (wordXYN op x y n) = n := by
  apply BitVec.eq_of_toNat_eq
  rw [nField, toNat_field, toNat_wordXYN]
  omega

/-! ### A word from its fields -/

/-- A word is composed of its top nibble and nnn. -/
theorem wordNNN_fields (w : Word) : wordNNN (opField w) (nnnField w) = w := by
  apply BitVec.eq_of_toNat_eq
  rw [toNat_wordNNN, opField, nnnField, toNat_field, toNat_field]
  omega

/-- A word is composed of its top nibble, x and kk. -/
theorem wordXKK_fields (w : Word) : wordXKK (opField w) (xField w) (kkField w) = w := by
  apply BitVec.eq_of_toNat_eq
  rw [toNat_wordXKK, opField, xField, kkField, toNat_field, toNat_field, toNat_field]
  omega

/-- A word is composed of its four nibbles. -/
theorem wordXYN_fields (w : Word) : wordXYN (opField w) (xField w) (yField w) (nField w) = w := by
  apply BitVec.eq_of_toNat_eq
  rw [toNat_wordXYN, opField, xField, yField, nField, toNat_field, toNat_field, toNat_field, toNat_field]
  omega

/-! ### Bytes of a word (R55) -/

/-- A word laid out in memory order and read back is the word. -/
@[simp] theorem wordOfBytes_hi_lo (w : Word) : wordOfBytes (hiByte w) (loByte w) = w := by
  apply BitVec.eq_of_toNat_eq
  rw [wordOfBytes, toNat_append_eq, hiByte, loByte, toNat_field, toNat_field]
  omega

/-- Without STRICT_5_9 every low nibble is admitted (R80). -/
@[simp] theorem lowNibbleOk_false (low : Nibble) : lowNibbleOk false low = true := rfl

/-- Under STRICT_5_9 only 0 is admitted (R80). -/
theorem lowNibbleOk_true (low : Nibble) : lowNibbleOk true low = true ↔ low = 0 := by
  simp [lowNibbleOk]

end Sys2Proof.Laws
end

