-- ==== Sys2Proof/Laws/Display.lean ====
section
/-! SUPPORT. The display unit: cells after a clear and after a toggle, and what one sprite row does. -/

namespace Sys2Proof.Laws

open Sys2Proof.Machine

/-- Two grids are equal when every cell is (R28). -/
theorem display_ext {d e : Display} (h : ∀ x y, x < 64 → y < 32 → Display.cell d x y = Display.cell e x y) :
    d = e := by
  apply Vector.ext
  intro x hx
  apply Vector.ext
  intro y hy
  have := h x y hx hy
  simpa [Display.cell, Nat.mod_eq_of_lt hx, Nat.mod_eq_of_lt hy] using this

/-- Addressing is toroidal in the column (R194). -/
theorem cell_mod_col (d : Display) (x y : Nat) : Display.cell d (x % 64) y = Display.cell d x y := by
  simp [Display.cell]

/-- Addressing is toroidal in the row (R194). -/
theorem cell_mod_row (d : Display) (x y : Nat) : Display.cell d x (y % 32) = Display.cell d x y := by
  simp [Display.cell]

/-- Every cell of a cleared grid is off (R193). -/
@[simp] theorem cell_cleared (x y : Nat) : Display.cell clearedDisplay x y = false := by
  simp [Display.cell, clearedDisplay]

/-- A toggle inverts its own cell and no other (R194). -/
@[simp] theorem cell_toggle (d : Display) (a b x y : Nat) :
    Display.cell (Display.toggle d a b) x y
      = if a % 64 = x % 64 ∧ b % 32 = y % 32 then !Display.cell d x y else Display.cell d x y := by
  by_cases hx : a % 64 = x % 64
  · by_cases hy : b % 32 = y % 32
    · simp [Display.cell, Display.toggle, hx, hy]
    · simp [Display.cell, Display.toggle, hx, hy]
  · simp [Display.cell, Display.toggle, hx]

/-- Column c of a sprite row at (ox, oy), its bit set, lands on the cell (x, y) (R194, R195). -/
abbrev ColumnLands (b : Byte) (ox oy x y c : Nat) : Prop :=
  (ox + c) % 64 = x % 64 ∧ oy % 32 = y % 32 ∧ spriteBit b c = true

/-- What n columns of a sprite row do to a cell: it is inverted when one of them lands on it (R194). -/
theorem cell_blitCols (b : Byte) (ox oy : Nat) (n : Nat) (hn : n ≤ 8) (acc : Blit) (x y : Nat) :
    (Display.cell (blitCols b ox oy n acc).grid x y = true) ↔
      ¬ ((Display.cell acc.grid x y = true) ↔ ∃ c < n, ColumnLands b ox oy x y c) := by
  induction n with
  | zero => simp [blitCols]
  | succ n ih =>
    have ih := ih (by omega)
    simp only [blitCols, blitBit]
    by_cases hit : (ox + n) % 64 = x % 64 ∧ oy % 32 = y % 32
    · have none_before : ¬ ∃ c < n, ColumnLands b ox oy x y c := by
        rintro ⟨c, hc, h1, -⟩
        have := hit.1
        omega
      have now : (∃ c < n + 1, ColumnLands b ox oy x y c) ↔ spriteBit b n = true := by
        constructor
        · rintro ⟨c, hc, h1, h2, h3⟩
          have : c = n := by
            have := hit.1
            omega
          exact this ▸ h3
        · exact fun h => ⟨n, by omega, hit.1, hit.2, h⟩
      rw [now]
      rw [iff_false_intro none_before, iff_false, not_not] at ih
      have ih' := Bool.eq_iff_iff.mpr ih
      split
      · rename_i hb
        simp [hit, hb, ih']
      · rename_i hb
        simp [hb, ih']
    · have same : (∃ c < n + 1, ColumnLands b ox oy x y c) ↔ ∃ c < n, ColumnLands b ox oy x y c := by
        constructor
        · rintro ⟨c, hc, h1, h2, h3⟩
          refine ⟨c, ?_, h1, h2, h3⟩
          rcases Nat.lt_succ_iff_lt_or_eq.mp hc with h | rfl
          · exact h
          · exact absurd ⟨h1, h2⟩ hit
        · rintro ⟨c, hc, h⟩
          exact ⟨c, by omega, h⟩
      rw [same, ← ih]
      split
      · simp [hit]
      · rfl

/-- When n columns of a sprite row collide: it had collided, or a set sprite bit met a lit cell (R194). -/
theorem collided_blitCols (b : Byte) (ox oy : Nat) (n : Nat) (hn : n ≤ 8) (acc : Blit) :
    ((blitCols b ox oy n acc).collided = true) ↔
      (acc.collided = true ∨
        ∃ c < n, spriteBit b c = true ∧ Display.cell acc.grid (ox + c) oy = true) := by
  induction n with
  | zero => simp [blitCols]
  | succ n ih =>
    have ih := ih (by omega)
    have fresh : Display.cell (blitCols b ox oy n acc).grid (ox + n) oy = Display.cell acc.grid (ox + n) oy := by
      have h := cell_blitCols b ox oy n (by omega) acc (ox + n) oy
      have none_before : ¬ ∃ c < n, ColumnLands b ox oy (ox + n) oy c := by
        rintro ⟨c, hc, h1, -⟩
        omega
      rw [iff_false_intro none_before, iff_false, not_not] at h
      exact Bool.eq_iff_iff.mpr h
    have split_last : (∃ c < n + 1, spriteBit b c = true ∧ Display.cell acc.grid (ox + c) oy = true) ↔
        (∃ c < n, spriteBit b c = true ∧ Display.cell acc.grid (ox + c) oy = true) ∨
          (spriteBit b n = true ∧ Display.cell acc.grid (ox + n) oy = true) := by
      constructor
      · rintro ⟨c, hc, h⟩
        rcases Nat.lt_succ_iff_lt_or_eq.mp hc with hlt | rfl
        · exact .inl ⟨c, hlt, h⟩
        · exact .inr h
      · rintro (⟨c, hc, h⟩ | h)
        · exact ⟨c, by omega, h⟩
        · exact ⟨n, by omega, h⟩
    rw [split_last]
    simp only [blitCols, blitBit]
    cases hb : spriteBit b n
    · simp [ih]
    · simp [ih, fresh, or_assoc]

end Sys2Proof.Laws
end

