-- ==== Sys2Proof/Laws/Keys.lean ====
section
/-! SUPPORT. The pressed key and the timers' countdown. -/

namespace Sys2Proof.Laws

open Sys2Proof.Machine

/-- No key is pressed exactly when every key is false (R220). -/
theorem pressedKey_eq_none_iff (s : State) :
    pressedKey s = none ↔ ∀ k, ∀ h : k < 16, s.keys[k] = false := by
  simp only [pressedKey, Option.map_eq_none_iff, List.findIdx?_eq_none_iff, id]
  constructor
  · intro h k hk
    exact h _ (by simp)
  · intro h b hb
    obtain ⟨k, hk, rfl⟩ := List.getElem_of_mem hb
    simpa using h k (by simpa using hk)

/-- The pressed key is the lowest-numbered one (R220). -/
theorem pressedKey_eq_some_iff (s : State) (b : Byte) :
    pressedKey s = some b ↔
      ∃ h : b.toNat < 16, s.keys[b.toNat] = true ∧ ∀ j, ∀ hj : j < b.toNat, s.keys[j] = false := by
  simp only [pressedKey, Option.map_eq_some_iff, List.findIdx?_eq_some_iff_getElem]
  constructor
  · rintro ⟨k, ⟨hk, h1, h2⟩, rfl⟩
    have hk16 : k < 16 := by simpa using hk
    have hk' : (BitVec.ofNat 8 k).toNat = k := by simp; omega
    refine ⟨by omega, ?_, ?_⟩
    · simpa [hk'] using h1
    · intro j hj
      simpa using h2 j (by omega)
  · rintro ⟨h, h1, h2⟩
    refine ⟨b.toNat, ⟨by simpa using h, by simpa using h1, ?_⟩, by simp⟩
    intro j hj
    simpa using h2 j hj

/-- A count down takes one off and never goes below zero (R236). -/
theorem toNat_countDown (b : Byte) : (countDown b).toNat = b.toNat - 1 := by
  unfold countDown
  split
  · simp_all
  · rename_i h
    have h0 : b.toNat ≠ 0 := fun h' => h (BitVec.eq_of_toNat_eq (by simpa using h'))
    have := b.isLt
    rw [BitVec.toNat_sub]
    simp
    omega

/-- A tick changes the two timers alone (R236). -/
theorem tick_eq (s : State) : tick s = { s with st := countDown s.st, dt := countDown s.dt } := rfl

end Sys2Proof.Laws
end

