-- ==== Sys2Proof/Laws/Memory.lean ====
section
/-! SUPPORT. Memory: a read after a write, single bytes and runs of bytes, and that every memory operation
keeps the canonical form `Memory.wf`. -/

namespace Sys2Proof.Laws

open Sys2Proof.Machine

/-! ### Reads after writes -/

/-- Erasing an address brings back what an unlisted address reads as. -/
theorem lookup_erase (m : Memory) (a b : Nat) :
    Memory.lookup (Memory.erase m a) b = if a = b then resetByte b else Memory.lookup m b := by
  unfold Memory.erase
  induction m with
  | nil => simp [Memory.lookup]
  | cons c m ih =>
    by_cases hc : c.1 = a
    · by_cases hb : a = b <;> simp_all [Memory.lookup]
    · by_cases hb : a = b <;> by_cases hcb : c.1 = b <;> simp_all [Memory.lookup]

/-- Inserting an entry for an address that is not listed adds that entry alone. -/
theorem lookup_insert (m : Memory) (a : Nat) (v : Byte) (h : ∀ c ∈ m, c.1 ≠ a) (b : Nat) :
    Memory.lookup (Memory.insert a v m) b = if a = b then v else Memory.lookup m b := by
  induction m with
  | nil => simp [Memory.insert, Memory.lookup]
  | cons c m ih =>
    have hca : c.1 ≠ a := h c (by simp)
    have ih' := ih (fun d hd => h d (by simp [hd]))
    by_cases hlt : a < c.1
    · simp [Memory.insert, hlt, Memory.lookup]
    · simp only [Memory.insert, hlt, if_false, Memory.lookup, ih']
      by_cases hcb : c.1 = b
      · simp [hcb, show a ≠ b from fun h => hca (hcb.trans h.symm)]
      · simp [hcb]

/-- After erasing an address no entry for it is listed. -/
theorem erase_ne (m : Memory) (a : Nat) : ∀ c ∈ Memory.erase m a, c.1 ≠ a := by
  simp [Memory.erase]

/-- A write of a byte: that address reads as the byte, every other address as before (R52, R53). -/
@[simp] theorem read_write (m : Memory) (a b : Nat) (v : Byte) :
    Memory.read (Memory.write m a v) b
      = if a % memSize = b % memSize then v else Memory.read m b := by
  simp only [Memory.read, Memory.write]
  split
  · rename_i hv
    rw [lookup_erase]
    split
    · rename_i hab; rw [hv, hab]
    · rfl
  · rw [lookup_insert _ _ _ (erase_ne _ _), lookup_erase]
    split <;> simp_all

/-- Only the address mod 4096 matters to a read (R52). -/
theorem read_mod (m : Memory) (a : Nat) : Memory.read m (a % memSize) = Memory.read m a := by
  simp [Memory.read]

/-- A run of fewer than 4096 bytes: byte k lands at addr + k, every other address is kept (R56). -/
theorem read_writeBytes (m : Memory) (addr : Nat) (bs : List Byte) (h : bs.length ≤ memSize) (b : Nat) :
    (∀ k, ∀ hk : k < bs.length, (addr + k) % memSize = b % memSize →
      Memory.read (Memory.writeBytes m addr bs) b = bs[k]) ∧
    ((∀ k, k < bs.length → (addr + k) % memSize ≠ b % memSize) →
      Memory.read (Memory.writeBytes m addr bs) b = Memory.read m b) := by
  induction bs generalizing m addr with
  | nil => simp [Memory.writeBytes]
  | cons v bs ih =>
    have hl : bs.length + 1 ≤ memSize := by simpa using h
    obtain ⟨ih1, ih2⟩ := ih (Memory.write m addr v) (addr + 1) (by omega)
    refine ⟨?_, ?_⟩
    · intro k hk hkb
      cases k with
      | zero =>
        have h2 := ih2 (by
          intro j hj hjb
          simp only [memSize] at *
          omega)
        simp only [Memory.writeBytes, h2, read_write]
        simp [show addr % memSize = b % memSize by simpa using hkb]
      | succ k =>
        have hk' : k < bs.length := by simpa using hk
        have := ih1 k hk' (by rw [show addr + 1 + k = addr + (k + 1) by omega]; exact hkb)
        simpa [Memory.writeBytes] using this
    · intro hne
      have h2 := ih2 (by
        intro j hj
        rw [show addr + 1 + j = addr + (j + 1) by omega]
        exact hne (j + 1) (by simpa using hj))
      have h0 := hne 0 (by simp)
      simp only [Memory.writeBytes, h2, read_write]
      simp [show addr % memSize ≠ b % memSize by simpa using h0]

/-- A run of reads has the length asked for. -/
@[simp] theorem length_readBytes (m : Memory) (addr n : Nat) : (Memory.readBytes m addr n).length = n := by
  induction n generalizing addr with
  | zero => rfl
  | succ n ih => simp [Memory.readBytes, ih]

/-- Byte k of a run of reads is the byte at addr + k (R56). -/
@[simp] theorem getElem_readBytes (m : Memory) (addr n k : Nat) (h : k < (Memory.readBytes m addr n).length) :
    (Memory.readBytes m addr n)[k] = Memory.read m (addr + k) := by
  induction n generalizing addr k with
  | zero => simp [Memory.readBytes] at h
  | succ n ih =>
    cases k with
    | zero => simp [Memory.readBytes]
    | succ k =>
      have := ih (addr + 1) k (by simpa using h)
      simpa [Memory.readBytes, show addr + 1 + k = addr + (k + 1) by omega] using this

/-! ### The canonical form -/

/-- An entry of a memory with one inserted is that one or an old one. -/
theorem mem_insert {m : Memory} {a : Nat} {v : Byte} {c : Host.Cell} :
    c ∈ Memory.insert a v m ↔ c = (a, v) ∨ c ∈ m := by
  induction m with
  | nil => simp [Memory.insert]
  | cons d m ih =>
    by_cases h : a < d.1
    · simp [Memory.insert, h]
    · simp [Memory.insert, h, ih]
      tauto

/-- Erasing keeps the canonical form. -/
theorem wf_erase {m : Memory} (h : Memory.wf m) (a : Nat) : Memory.wf (Memory.erase m a) :=
  ⟨h.1.filter _, fun c hc => h.2 c (List.mem_filter.mp hc).1⟩

/-- Inserting at an address that is not listed, a byte that differs from what it reads as, keeps the
canonical form. -/
theorem wf_insert {m : Memory} (h : Memory.wf m) {a : Nat} {v : Byte} (hne : ∀ c ∈ m, c.1 ≠ a)
    (ha : a < memSize) (hv : v ≠ resetByte a) : Memory.wf (Memory.insert a v m) := by
  refine ⟨?_, fun c hc => ?_⟩
  · have hs := h.1
    clear h
    induction m with
    | nil => simp [Memory.insert]
    | cons d m ih =>
      have hd : d.1 ≠ a := hne d (by simp)
      obtain ⟨hdm, hm⟩ := List.pairwise_cons.mp hs
      by_cases hlt : a < d.1
      · simp only [Memory.insert, hlt, if_true]
        refine List.pairwise_cons.mpr ⟨fun c hc => ?_, hs⟩
        rcases List.mem_cons.mp hc with rfl | hc
        · exact hlt
        · exact lt_trans hlt (hdm c hc)
      · simp only [Memory.insert, hlt, if_false]
        refine List.pairwise_cons.mpr ⟨fun c hc => ?_, ih (fun c hc => hne c (by simp [hc])) hm⟩
        rcases mem_insert.mp hc with rfl | hc
        · exact lt_of_le_of_ne (not_lt.mp hlt) hd
        · exact hdm c hc
  · rcases mem_insert.mp hc with rfl | hc
    · exact ⟨ha, hv⟩
    · exact h.2 c hc

/-- A write keeps the canonical form. -/
theorem wf_write {m : Memory} (h : Memory.wf m) (a : Nat) (v : Byte) : Memory.wf (Memory.write m a v) := by
  simp only [Memory.write]
  split
  · exact wf_erase h _
  · rename_i hv
    exact wf_insert (wf_erase h _) (erase_ne _ _) (Nat.mod_lt _ (by decide)) hv

/-- A run of writes keeps the canonical form. -/
theorem wf_writeBytes {m : Memory} (h : Memory.wf m) (addr : Nat) (bs : List Byte) :
    Memory.wf (Memory.writeBytes m addr bs) := by
  induction bs generalizing m addr with
  | nil => exact h
  | cons b bs ih => exact ih (wf_write h addr b) (addr + 1)

/-- The memory of the state after construction is in canonical form. -/
theorem wf_reset : Memory.wf State.reset.mem := by decide

end Sys2Proof.Laws
end

