-- ==== Sys2Proof/Laws/PerInstr.lean ====
section
/-! SUPPORT. The family TableBits: every instruction's word carries the bits its row of
spec/opcode_table.json fixes. -/

namespace Sys2Proof.Laws

/-- A nibble masked with ones. -/
theorem nibble_and_ones (a : Nibble) : a &&& 0xF = a := BitVec.and_allOnes

/-- A byte masked with ones. -/
theorem byte_and_ones (a : Byte) : a &&& 0xFF = a := BitVec.and_allOnes

/-- Bits masked with zeros. -/
theorem bits_and_zero {n : Nat} (a : BitVec n) : a &&& 0 = 0 := BitVec.and_zero

/-- Masking out all but the top nibble of an op nnn word. -/
theorem wordNNN_and_top (op : Nibble) (a : Addr) : wordNNN op a &&& wordNNN 0xF 0 = wordNNN op 0 := by
  unfold wordNNN
  rw [BitVec.and_append, nibble_and_ones, bits_and_zero]

/-- Masking out x and kk of an op x kk word. -/
theorem wordXKK_and_top (op x : Nibble) (kk : Byte) :
    wordXKK op x kk &&& wordXKK 0xF 0 0 = wordXKK op 0 0 := by
  unfold wordXKK
  rw [BitVec.and_append, BitVec.and_append, nibble_and_ones, bits_and_zero, bits_and_zero]

/-- Masking out x of an op x kk word. -/
theorem wordXKK_and_byte (op x : Nibble) (kk : Byte) :
    wordXKK op x kk &&& wordXKK 0xF 0 0xFF = wordXKK op 0 kk := by
  unfold wordXKK
  rw [BitVec.and_append, BitVec.and_append, nibble_and_ones, bits_and_zero, byte_and_ones]

/-- Masking out x and y of an op x y n word. -/
theorem wordXYN_and_low (op x y n : Nibble) :
    wordXYN op x y n &&& wordXYN 0xF 0 0 0xF = wordXYN op 0 0 n := by
  unfold wordXYN
  rw [BitVec.and_append, BitVec.and_append, BitVec.and_append, nibble_and_ones, nibble_and_ones,
    bits_and_zero, bits_and_zero]

/-- Masking out all but the top nibble of an op x y n word. -/
theorem wordXYN_and_top (op x y n : Nibble) :
    wordXYN op x y n &&& wordXYN 0xF 0 0 0 = wordXYN op 0 0 0 := by
  unfold wordXYN
  rw [BitVec.and_append, BitVec.and_append, BitVec.and_append, nibble_and_ones, bits_and_zero,
    bits_and_zero, bits_and_zero]

end Sys2Proof.Laws

namespace Sys2Proof.Laws.TableBits

/-- The word of `i` holds the fixed bits of its row of spec/opcode_table.json (R75). -/
def Statement (i : Instr) : Prop := encode i &&& (tableRow i).mask = (tableRow i).fixed

theorem cls : Statement .cls := rfl
theorem ret : Statement .ret := rfl
theorem jp (nnn : Addr) : Statement (.jp nnn) := wordNNN_and_top _ nnn
theorem call (nnn : Addr) : Statement (.call nnn) := wordNNN_and_top _ nnn
theorem seImm (x : Nibble) (kk : Byte) : Statement (.seImm x kk) := wordXKK_and_top _ x kk
theorem sneImm (x : Nibble) (kk : Byte) : Statement (.sneImm x kk) := wordXKK_and_top _ x kk
theorem seReg (x y n : Nibble) : Statement (.seReg x y n) := wordXYN_and_top _ x y n
theorem ldImm (x : Nibble) (kk : Byte) : Statement (.ldImm x kk) := wordXKK_and_top _ x kk
theorem addImm (x : Nibble) (kk : Byte) : Statement (.addImm x kk) := wordXKK_and_top _ x kk
theorem ldReg (x y : Nibble) : Statement (.ldReg x y) := wordXYN_and_low _ x y _
theorem orReg (x y : Nibble) : Statement (.orReg x y) := wordXYN_and_low _ x y _
theorem andReg (x y : Nibble) : Statement (.andReg x y) := wordXYN_and_low _ x y _
theorem xorReg (x y : Nibble) : Statement (.xorReg x y) := wordXYN_and_low _ x y _
theorem addReg (x y : Nibble) : Statement (.addReg x y) := wordXYN_and_low _ x y _
theorem sub (x y : Nibble) : Statement (.sub x y) := wordXYN_and_low _ x y _
theorem shr (x y : Nibble) : Statement (.shr x y) := wordXYN_and_low _ x y _
theorem subn (x y : Nibble) : Statement (.subn x y) := wordXYN_and_low _ x y _
theorem shl (x y : Nibble) : Statement (.shl x y) := wordXYN_and_low _ x y _
theorem sneReg (x y n : Nibble) : Statement (.sneReg x y n) := wordXYN_and_top _ x y n
theorem ldI (nnn : Addr) : Statement (.ldI nnn) := wordNNN_and_top _ nnn
theorem jpV0 (nnn : Addr) : Statement (.jpV0 nnn) := wordNNN_and_top _ nnn
theorem rnd (x : Nibble) (kk : Byte) : Statement (.rnd x kk) := wordXKK_and_top _ x kk
theorem drw (x y n : Nibble) : Statement (.drw x y n) := wordXYN_and_top _ x y n
theorem skp (x : Nibble) : Statement (.skp x) := wordXKK_and_byte _ x _
theorem sknp (x : Nibble) : Statement (.sknp x) := wordXKK_and_byte _ x _
theorem ldVxDT (x : Nibble) : Statement (.ldVxDT x) := wordXKK_and_byte _ x _
theorem ldVxK (x : Nibble) : Statement (.ldVxK x) := wordXKK_and_byte _ x _
theorem ldDTVx (x : Nibble) : Statement (.ldDTVx x) := wordXKK_and_byte _ x _
theorem ldSTVx (x : Nibble) : Statement (.ldSTVx x) := wordXKK_and_byte _ x _
theorem addI (x : Nibble) : Statement (.addI x) := wordXKK_and_byte _ x _
theorem ldF (x : Nibble) : Statement (.ldF x) := wordXKK_and_byte _ x _
theorem ldB (x : Nibble) : Statement (.ldB x) := wordXKK_and_byte _ x _
theorem ldStore (x : Nibble) : Statement (.ldStore x) := wordXKK_and_byte _ x _
theorem ldLoad (x : Nibble) : Statement (.ldLoad x) := wordXKK_and_byte _ x _

end Sys2Proof.Laws.TableBits
end

