-- ==== Sys2Proof/Laws/State.lean ====
section
/-! SUPPORT. One lemma for each field under each state update of Sys2Proof/Machine/Ops.lean, and the two
reads (a register, a byte of memory) under each update that leaves them, so that no later proof unfolds a
record update. -/

namespace Sys2Proof.Laws

open Sys2Proof.Machine

variable (s : State)

/-! ### writeV -/

@[simp] theorem writeV_v (x : Nibble) (b : Byte) : (writeV s x b).v = s.v.set x.toNat b x.isLt := rfl
@[simp] theorem writeV_pc (x : Nibble) (b : Byte) : (writeV s x b).pc = s.pc := rfl
@[simp] theorem writeV_i (x : Nibble) (b : Byte) : (writeV s x b).i = s.i := rfl
@[simp] theorem writeV_sp (x : Nibble) (b : Byte) : (writeV s x b).sp = s.sp := rfl
@[simp] theorem writeV_stack (x : Nibble) (b : Byte) : (writeV s x b).stack = s.stack := rfl
@[simp] theorem writeV_dt (x : Nibble) (b : Byte) : (writeV s x b).dt = s.dt := rfl
@[simp] theorem writeV_st (x : Nibble) (b : Byte) : (writeV s x b).st = s.st := rfl
@[simp] theorem writeV_display (x : Nibble) (b : Byte) : (writeV s x b).display = s.display := rfl
@[simp] theorem writeV_keys (x : Nibble) (b : Byte) : (writeV s x b).keys = s.keys := rfl
@[simp] theorem writeV_mem (x : Nibble) (b : Byte) : (writeV s x b).mem = s.mem := rfl
@[simp] theorem writeV_latch (x : Nibble) (b : Byte) : (writeV s x b).latch = s.latch := rfl
@[simp] theorem writeV_run (x : Nibble) (b : Byte) : (writeV s x b).run = s.run := rfl
@[simp] theorem writeV_events (x : Nibble) (b : Byte) : (writeV s x b).events = s.events := rfl
@[simp] theorem writeV_disposed (x : Nibble) (b : Byte) : (writeV s x b).disposed = s.disposed := rfl
@[simp] theorem writeV_config (x : Nibble) (b : Byte) : (writeV s x b).config = s.config := rfl
@[simp] theorem writeV_draws (x : Nibble) (b : Byte) : (writeV s x b).draws = s.draws := rfl
@[simp] theorem writeV_agenda (x : Nibble) (b : Byte) : (writeV s x b).agenda = s.agenda := rfl
@[simp] theorem writeV_schedule (x : Nibble) (b : Byte) : (writeV s x b).schedule = s.schedule := rfl
@[simp] theorem readMem_writeV (x : Nibble) (b : Byte) (a : Nat) : readMem (writeV s x b) a = readMem s a := by
  simp [readMem]

/-! ### setV -/

@[simp] theorem setV_v (v : Vector Byte 16) : (setV s v).v = v := rfl
@[simp] theorem setV_pc (v : Vector Byte 16) : (setV s v).pc = s.pc := rfl
@[simp] theorem setV_i (v : Vector Byte 16) : (setV s v).i = s.i := rfl
@[simp] theorem setV_sp (v : Vector Byte 16) : (setV s v).sp = s.sp := rfl
@[simp] theorem setV_stack (v : Vector Byte 16) : (setV s v).stack = s.stack := rfl
@[simp] theorem setV_dt (v : Vector Byte 16) : (setV s v).dt = s.dt := rfl
@[simp] theorem setV_st (v : Vector Byte 16) : (setV s v).st = s.st := rfl
@[simp] theorem setV_display (v : Vector Byte 16) : (setV s v).display = s.display := rfl
@[simp] theorem setV_keys (v : Vector Byte 16) : (setV s v).keys = s.keys := rfl
@[simp] theorem setV_mem (v : Vector Byte 16) : (setV s v).mem = s.mem := rfl
@[simp] theorem setV_latch (v : Vector Byte 16) : (setV s v).latch = s.latch := rfl
@[simp] theorem setV_run (v : Vector Byte 16) : (setV s v).run = s.run := rfl
@[simp] theorem setV_events (v : Vector Byte 16) : (setV s v).events = s.events := rfl
@[simp] theorem setV_disposed (v : Vector Byte 16) : (setV s v).disposed = s.disposed := rfl
@[simp] theorem setV_config (v : Vector Byte 16) : (setV s v).config = s.config := rfl
@[simp] theorem setV_draws (v : Vector Byte 16) : (setV s v).draws = s.draws := rfl
@[simp] theorem setV_agenda (v : Vector Byte 16) : (setV s v).agenda = s.agenda := rfl
@[simp] theorem setV_schedule (v : Vector Byte 16) : (setV s v).schedule = s.schedule := rfl
@[simp] theorem readMem_setV (v : Vector Byte 16) (a : Nat) : readMem (setV s v) a = readMem s a := by
  simp [readMem]

/-! ### writeI -/

@[simp] theorem writeI_v (w : Word) : (writeI s w).v = s.v := rfl
@[simp] theorem writeI_pc (w : Word) : (writeI s w).pc = s.pc := rfl
@[simp] theorem writeI_i (w : Word) : (writeI s w).i = w := rfl
@[simp] theorem writeI_sp (w : Word) : (writeI s w).sp = s.sp := rfl
@[simp] theorem writeI_stack (w : Word) : (writeI s w).stack = s.stack := rfl
@[simp] theorem writeI_dt (w : Word) : (writeI s w).dt = s.dt := rfl
@[simp] theorem writeI_st (w : Word) : (writeI s w).st = s.st := rfl
@[simp] theorem writeI_display (w : Word) : (writeI s w).display = s.display := rfl
@[simp] theorem writeI_keys (w : Word) : (writeI s w).keys = s.keys := rfl
@[simp] theorem writeI_mem (w : Word) : (writeI s w).mem = s.mem := rfl
@[simp] theorem writeI_latch (w : Word) : (writeI s w).latch = s.latch := rfl
@[simp] theorem writeI_run (w : Word) : (writeI s w).run = s.run := rfl
@[simp] theorem writeI_events (w : Word) : (writeI s w).events = s.events := rfl
@[simp] theorem writeI_disposed (w : Word) : (writeI s w).disposed = s.disposed := rfl
@[simp] theorem writeI_config (w : Word) : (writeI s w).config = s.config := rfl
@[simp] theorem writeI_draws (w : Word) : (writeI s w).draws = s.draws := rfl
@[simp] theorem writeI_agenda (w : Word) : (writeI s w).agenda = s.agenda := rfl
@[simp] theorem writeI_schedule (w : Word) : (writeI s w).schedule = s.schedule := rfl
@[simp] theorem readV_writeI (w : Word) (r : Nibble) : readV (writeI s w) r = readV s r := by
  simp [readV]
@[simp] theorem readMem_writeI (w : Word) (a : Nat) : readMem (writeI s w) a = readMem s a := by
  simp [readMem]

/-! ### advance -/

@[simp] theorem advance_v : (advance s).v = s.v := rfl
@[simp] theorem advance_pc : (advance s).pc = s.pc + 2 := rfl
@[simp] theorem advance_i : (advance s).i = s.i := rfl
@[simp] theorem advance_sp : (advance s).sp = s.sp := rfl
@[simp] theorem advance_stack : (advance s).stack = s.stack := rfl
@[simp] theorem advance_dt : (advance s).dt = s.dt := rfl
@[simp] theorem advance_st : (advance s).st = s.st := rfl
@[simp] theorem advance_display : (advance s).display = s.display := rfl
@[simp] theorem advance_keys : (advance s).keys = s.keys := rfl
@[simp] theorem advance_mem : (advance s).mem = s.mem := rfl
@[simp] theorem advance_latch : (advance s).latch = s.latch := rfl
@[simp] theorem advance_run : (advance s).run = s.run := rfl
@[simp] theorem advance_events : (advance s).events = s.events := rfl
@[simp] theorem advance_disposed : (advance s).disposed = s.disposed := rfl
@[simp] theorem advance_config : (advance s).config = s.config := rfl
@[simp] theorem advance_draws : (advance s).draws = s.draws := rfl
@[simp] theorem advance_agenda : (advance s).agenda = s.agenda := rfl
@[simp] theorem advance_schedule : (advance s).schedule = s.schedule := rfl
@[simp] theorem readV_advance (r : Nibble) : readV (advance s) r = readV s r := by
  simp [readV]
@[simp] theorem readMem_advance (a : Nat) : readMem (advance s) a = readMem s a := by
  simp [readMem]

/-! ### skip -/

@[simp] theorem skip_v : (skip s).v = s.v := rfl
@[simp] theorem skip_pc : (skip s).pc = s.pc + 2 := rfl
@[simp] theorem skip_i : (skip s).i = s.i := rfl
@[simp] theorem skip_sp : (skip s).sp = s.sp := rfl
@[simp] theorem skip_stack : (skip s).stack = s.stack := rfl
@[simp] theorem skip_dt : (skip s).dt = s.dt := rfl
@[simp] theorem skip_st : (skip s).st = s.st := rfl
@[simp] theorem skip_display : (skip s).display = s.display := rfl
@[simp] theorem skip_keys : (skip s).keys = s.keys := rfl
@[simp] theorem skip_mem : (skip s).mem = s.mem := rfl
@[simp] theorem skip_latch : (skip s).latch = s.latch := rfl
@[simp] theorem skip_run : (skip s).run = s.run := rfl
@[simp] theorem skip_events : (skip s).events = s.events := rfl
@[simp] theorem skip_disposed : (skip s).disposed = s.disposed := rfl
@[simp] theorem skip_config : (skip s).config = s.config := rfl
@[simp] theorem skip_draws : (skip s).draws = s.draws := rfl
@[simp] theorem skip_agenda : (skip s).agenda = s.agenda := rfl
@[simp] theorem skip_schedule : (skip s).schedule = s.schedule := rfl
@[simp] theorem readV_skip (r : Nibble) : readV (skip s) r = readV s r := by
  simp [readV]
@[simp] theorem readMem_skip (a : Nat) : readMem (skip s) a = readMem s a := by
  simp [readMem]

/-! ### skipIf -/

@[simp] theorem skipIf_v (c : Bool) : (skipIf c s).v = s.v := by cases c <;> rfl
@[simp] theorem skipIf_pc (c : Bool) : (skipIf c s).pc = if c then s.pc + 2 else s.pc := by cases c <;> rfl
@[simp] theorem skipIf_i (c : Bool) : (skipIf c s).i = s.i := by cases c <;> rfl
@[simp] theorem skipIf_sp (c : Bool) : (skipIf c s).sp = s.sp := by cases c <;> rfl
@[simp] theorem skipIf_stack (c : Bool) : (skipIf c s).stack = s.stack := by cases c <;> rfl
@[simp] theorem skipIf_dt (c : Bool) : (skipIf c s).dt = s.dt := by cases c <;> rfl
@[simp] theorem skipIf_st (c : Bool) : (skipIf c s).st = s.st := by cases c <;> rfl
@[simp] theorem skipIf_display (c : Bool) : (skipIf c s).display = s.display := by cases c <;> rfl
@[simp] theorem skipIf_keys (c : Bool) : (skipIf c s).keys = s.keys := by cases c <;> rfl
@[simp] theorem skipIf_mem (c : Bool) : (skipIf c s).mem = s.mem := by cases c <;> rfl
@[simp] theorem skipIf_latch (c : Bool) : (skipIf c s).latch = s.latch := by cases c <;> rfl
@[simp] theorem skipIf_run (c : Bool) : (skipIf c s).run = s.run := by cases c <;> rfl
@[simp] theorem skipIf_events (c : Bool) : (skipIf c s).events = s.events := by cases c <;> rfl
@[simp] theorem skipIf_disposed (c : Bool) : (skipIf c s).disposed = s.disposed := by cases c <;> rfl
@[simp] theorem skipIf_config (c : Bool) : (skipIf c s).config = s.config := by cases c <;> rfl
@[simp] theorem skipIf_draws (c : Bool) : (skipIf c s).draws = s.draws := by cases c <;> rfl
@[simp] theorem skipIf_agenda (c : Bool) : (skipIf c s).agenda = s.agenda := by cases c <;> rfl
@[simp] theorem skipIf_schedule (c : Bool) : (skipIf c s).schedule = s.schedule := by cases c <;> rfl
@[simp] theorem readV_skipIf (c : Bool) (r : Nibble) : readV (skipIf c s) r = readV s r := by
  simp [readV]
@[simp] theorem readMem_skipIf (c : Bool) (a : Nat) : readMem (skipIf c s) a = readMem s a := by
  simp [readMem]

/-! ### jump -/

@[simp] theorem jump_v (t : Word) : (jump s t).v = s.v := rfl
@[simp] theorem jump_pc (t : Word) : (jump s t).pc = t - 2 := rfl
@[simp] theorem jump_i (t : Word) : (jump s t).i = s.i := rfl
@[simp] theorem jump_sp (t : Word) : (jump s t).sp = s.sp := rfl
@[simp] theorem jump_stack (t : Word) : (jump s t).stack = s.stack := rfl
@[simp] theorem jump_dt (t : Word) : (jump s t).dt = s.dt := rfl
@[simp] theorem jump_st (t : Word) : (jump s t).st = s.st := rfl
@[simp] theorem jump_display (t : Word) : (jump s t).display = s.display := rfl
@[simp] theorem jump_keys (t : Word) : (jump s t).keys = s.keys := rfl
@[simp] theorem jump_mem (t : Word) : (jump s t).mem = s.mem := rfl
@[simp] theorem jump_latch (t : Word) : (jump s t).latch = s.latch := rfl
@[simp] theorem jump_run (t : Word) : (jump s t).run = s.run := rfl
@[simp] theorem jump_events (t : Word) : (jump s t).events = s.events := rfl
@[simp] theorem jump_disposed (t : Word) : (jump s t).disposed = s.disposed := rfl
@[simp] theorem jump_config (t : Word) : (jump s t).config = s.config := rfl
@[simp] theorem jump_draws (t : Word) : (jump s t).draws = s.draws := rfl
@[simp] theorem jump_agenda (t : Word) : (jump s t).agenda = s.agenda := rfl
@[simp] theorem jump_schedule (t : Word) : (jump s t).schedule = s.schedule := rfl
@[simp] theorem readV_jump (t : Word) (r : Nibble) : readV (jump s t) r = readV s r := by
  simp [readV]
@[simp] theorem readMem_jump (t : Word) (a : Nat) : readMem (jump s t) a = readMem s a := by
  simp [readMem]

/-! ### push -/

@[simp] theorem push_v (w : Word) : (push s w).v = s.v := by unfold push; split <;> rfl
@[simp] theorem push_pc (w : Word) : (push s w).pc = s.pc := by unfold push; split <;> rfl
@[simp] theorem push_i (w : Word) : (push s w).i = s.i := by unfold push; split <;> rfl
@[simp] theorem push_dt (w : Word) : (push s w).dt = s.dt := by unfold push; split <;> rfl
@[simp] theorem push_st (w : Word) : (push s w).st = s.st := by unfold push; split <;> rfl
@[simp] theorem push_display (w : Word) : (push s w).display = s.display := by unfold push; split <;> rfl
@[simp] theorem push_keys (w : Word) : (push s w).keys = s.keys := by unfold push; split <;> rfl
@[simp] theorem push_mem (w : Word) : (push s w).mem = s.mem := by unfold push; split <;> rfl
@[simp] theorem push_latch (w : Word) : (push s w).latch = s.latch := by unfold push; split <;> rfl
@[simp] theorem push_run (w : Word) : (push s w).run = s.run := by unfold push; split <;> rfl
@[simp] theorem push_events (w : Word) : (push s w).events = s.events := by unfold push; split <;> rfl
@[simp] theorem push_disposed (w : Word) : (push s w).disposed = s.disposed := by unfold push; split <;> rfl
@[simp] theorem push_config (w : Word) : (push s w).config = s.config := by unfold push; split <;> rfl
@[simp] theorem push_draws (w : Word) : (push s w).draws = s.draws := by unfold push; split <;> rfl
@[simp] theorem push_agenda (w : Word) : (push s w).agenda = s.agenda := by unfold push; split <;> rfl
@[simp] theorem push_schedule (w : Word) : (push s w).schedule = s.schedule := by unfold push; split <;> rfl
@[simp] theorem readV_push (w : Word) (r : Nibble) : readV (push s w) r = readV s r := by
  simp [readV]
@[simp] theorem readMem_push (w : Word) (a : Nat) : readMem (push s w) a = readMem s a := by
  simp [readMem]

/-! ### pop -/

@[simp] theorem pop_v : (pop s).v = s.v := rfl
@[simp] theorem pop_pc : (pop s).pc = s.pc := rfl
@[simp] theorem pop_i : (pop s).i = s.i := rfl
@[simp] theorem pop_sp : (pop s).sp = ⟨s.sp.val - 1, by omega⟩ := rfl
@[simp] theorem pop_stack : (pop s).stack = s.stack := rfl
@[simp] theorem pop_dt : (pop s).dt = s.dt := rfl
@[simp] theorem pop_st : (pop s).st = s.st := rfl
@[simp] theorem pop_display : (pop s).display = s.display := rfl
@[simp] theorem pop_keys : (pop s).keys = s.keys := rfl
@[simp] theorem pop_mem : (pop s).mem = s.mem := rfl
@[simp] theorem pop_latch : (pop s).latch = s.latch := rfl
@[simp] theorem pop_run : (pop s).run = s.run := rfl
@[simp] theorem pop_events : (pop s).events = s.events := rfl
@[simp] theorem pop_disposed : (pop s).disposed = s.disposed := rfl
@[simp] theorem pop_config : (pop s).config = s.config := rfl
@[simp] theorem pop_draws : (pop s).draws = s.draws := rfl
@[simp] theorem pop_agenda : (pop s).agenda = s.agenda := rfl
@[simp] theorem pop_schedule : (pop s).schedule = s.schedule := rfl
@[simp] theorem readV_pop (r : Nibble) : readV (pop s) r = readV s r := by
  simp [readV]
@[simp] theorem readMem_pop (a : Nat) : readMem (pop s) a = readMem s a := by
  simp [readMem]

/-! ### writeDT -/

@[simp] theorem writeDT_v (b : Byte) : (writeDT s b).v = s.v := rfl
@[simp] theorem writeDT_pc (b : Byte) : (writeDT s b).pc = s.pc := rfl
@[simp] theorem writeDT_i (b : Byte) : (writeDT s b).i = s.i := rfl
@[simp] theorem writeDT_sp (b : Byte) : (writeDT s b).sp = s.sp := rfl
@[simp] theorem writeDT_stack (b : Byte) : (writeDT s b).stack = s.stack := rfl
@[simp] theorem writeDT_dt (b : Byte) : (writeDT s b).dt = b := rfl
@[simp] theorem writeDT_st (b : Byte) : (writeDT s b).st = s.st := rfl
@[simp] theorem writeDT_display (b : Byte) : (writeDT s b).display = s.display := rfl
@[simp] theorem writeDT_keys (b : Byte) : (writeDT s b).keys = s.keys := rfl
@[simp] theorem writeDT_mem (b : Byte) : (writeDT s b).mem = s.mem := rfl
@[simp] theorem writeDT_latch (b : Byte) : (writeDT s b).latch = s.latch := rfl
@[simp] theorem writeDT_run (b : Byte) : (writeDT s b).run = s.run := rfl
@[simp] theorem writeDT_events (b : Byte) : (writeDT s b).events = s.events := rfl
@[simp] theorem writeDT_disposed (b : Byte) : (writeDT s b).disposed = s.disposed := rfl
@[simp] theorem writeDT_config (b : Byte) : (writeDT s b).config = s.config := rfl
@[simp] theorem writeDT_draws (b : Byte) : (writeDT s b).draws = s.draws := rfl
@[simp] theorem writeDT_agenda (b : Byte) : (writeDT s b).agenda = s.agenda := rfl
@[simp] theorem writeDT_schedule (b : Byte) : (writeDT s b).schedule = s.schedule := rfl
@[simp] theorem readV_writeDT (b : Byte) (r : Nibble) : readV (writeDT s b) r = readV s r := by
  simp [readV]
@[simp] theorem readMem_writeDT (b : Byte) (a : Nat) : readMem (writeDT s b) a = readMem s a := by
  simp [readMem]

/-! ### writeST -/

@[simp] theorem writeST_v (b : Byte) : (writeST s b).v = s.v := rfl
@[simp] theorem writeST_pc (b : Byte) : (writeST s b).pc = s.pc := rfl
@[simp] theorem writeST_i (b : Byte) : (writeST s b).i = s.i := rfl
@[simp] theorem writeST_sp (b : Byte) : (writeST s b).sp = s.sp := rfl
@[simp] theorem writeST_stack (b : Byte) : (writeST s b).stack = s.stack := rfl
@[simp] theorem writeST_dt (b : Byte) : (writeST s b).dt = s.dt := rfl
@[simp] theorem writeST_st (b : Byte) : (writeST s b).st = b := rfl
@[simp] theorem writeST_display (b : Byte) : (writeST s b).display = s.display := rfl
@[simp] theorem writeST_keys (b : Byte) : (writeST s b).keys = s.keys := rfl
@[simp] theorem writeST_mem (b : Byte) : (writeST s b).mem = s.mem := rfl
@[simp] theorem writeST_latch (b : Byte) : (writeST s b).latch = s.latch := rfl
@[simp] theorem writeST_run (b : Byte) : (writeST s b).run = s.run := rfl
@[simp] theorem writeST_events (b : Byte) : (writeST s b).events = s.events := rfl
@[simp] theorem writeST_disposed (b : Byte) : (writeST s b).disposed = s.disposed := rfl
@[simp] theorem writeST_config (b : Byte) : (writeST s b).config = s.config := rfl
@[simp] theorem writeST_draws (b : Byte) : (writeST s b).draws = s.draws := rfl
@[simp] theorem writeST_agenda (b : Byte) : (writeST s b).agenda = s.agenda := rfl
@[simp] theorem writeST_schedule (b : Byte) : (writeST s b).schedule = s.schedule := rfl
@[simp] theorem readV_writeST (b : Byte) (r : Nibble) : readV (writeST s b) r = readV s r := by
  simp [readV]
@[simp] theorem readMem_writeST (b : Byte) (a : Nat) : readMem (writeST s b) a = readMem s a := by
  simp [readMem]

/-! ### setMem -/

@[simp] theorem setMem_v (m : Memory) : (setMem s m).v = s.v := rfl
@[simp] theorem setMem_pc (m : Memory) : (setMem s m).pc = s.pc := rfl
@[simp] theorem setMem_i (m : Memory) : (setMem s m).i = s.i := rfl
@[simp] theorem setMem_sp (m : Memory) : (setMem s m).sp = s.sp := rfl
@[simp] theorem setMem_stack (m : Memory) : (setMem s m).stack = s.stack := rfl
@[simp] theorem setMem_dt (m : Memory) : (setMem s m).dt = s.dt := rfl
@[simp] theorem setMem_st (m : Memory) : (setMem s m).st = s.st := rfl
@[simp] theorem setMem_display (m : Memory) : (setMem s m).display = s.display := rfl
@[simp] theorem setMem_keys (m : Memory) : (setMem s m).keys = s.keys := rfl
@[simp] theorem setMem_mem (m : Memory) : (setMem s m).mem = m := rfl
@[simp] theorem setMem_latch (m : Memory) : (setMem s m).latch = s.latch := rfl
@[simp] theorem setMem_run (m : Memory) : (setMem s m).run = s.run := rfl
@[simp] theorem setMem_events (m : Memory) : (setMem s m).events = s.events := rfl
@[simp] theorem setMem_disposed (m : Memory) : (setMem s m).disposed = s.disposed := rfl
@[simp] theorem setMem_config (m : Memory) : (setMem s m).config = s.config := rfl
@[simp] theorem setMem_draws (m : Memory) : (setMem s m).draws = s.draws := rfl
@[simp] theorem setMem_agenda (m : Memory) : (setMem s m).agenda = s.agenda := rfl
@[simp] theorem setMem_schedule (m : Memory) : (setMem s m).schedule = s.schedule := rfl
@[simp] theorem readV_setMem (m : Memory) (r : Nibble) : readV (setMem s m) r = readV s r := by
  simp [readV]

/-! ### setDisplay -/

@[simp] theorem setDisplay_v (d : Display) : (setDisplay s d).v = s.v := rfl
@[simp] theorem setDisplay_pc (d : Display) : (setDisplay s d).pc = s.pc := rfl
@[simp] theorem setDisplay_i (d : Display) : (setDisplay s d).i = s.i := rfl
@[simp] theorem setDisplay_sp (d : Display) : (setDisplay s d).sp = s.sp := rfl
@[simp] theorem setDisplay_stack (d : Display) : (setDisplay s d).stack = s.stack := rfl
@[simp] theorem setDisplay_dt (d : Display) : (setDisplay s d).dt = s.dt := rfl
@[simp] theorem setDisplay_st (d : Display) : (setDisplay s d).st = s.st := rfl
@[simp] theorem setDisplay_display (d : Display) : (setDisplay s d).display = d := rfl
@[simp] theorem setDisplay_keys (d : Display) : (setDisplay s d).keys = s.keys := rfl
@[simp] theorem setDisplay_mem (d : Display) : (setDisplay s d).mem = s.mem := rfl
@[simp] theorem setDisplay_latch (d : Display) : (setDisplay s d).latch = s.latch := rfl
@[simp] theorem setDisplay_run (d : Display) : (setDisplay s d).run = s.run := rfl
@[simp] theorem setDisplay_events (d : Display) : (setDisplay s d).events = s.events := rfl
@[simp] theorem setDisplay_disposed (d : Display) : (setDisplay s d).disposed = s.disposed := rfl
@[simp] theorem setDisplay_config (d : Display) : (setDisplay s d).config = s.config := rfl
@[simp] theorem setDisplay_draws (d : Display) : (setDisplay s d).draws = s.draws := rfl
@[simp] theorem setDisplay_agenda (d : Display) : (setDisplay s d).agenda = s.agenda := rfl
@[simp] theorem setDisplay_schedule (d : Display) : (setDisplay s d).schedule = s.schedule := rfl
@[simp] theorem readV_setDisplay (d : Display) (r : Nibble) : readV (setDisplay s d) r = readV s r := by
  simp [readV]
@[simp] theorem readMem_setDisplay (d : Display) (a : Nat) : readMem (setDisplay s d) a = readMem s a := by
  simp [readMem]

/-! ### emitScreenUpdated -/

@[simp] theorem emitScreenUpdated_v : (emitScreenUpdated s).v = s.v := rfl
@[simp] theorem emitScreenUpdated_pc : (emitScreenUpdated s).pc = s.pc := rfl
@[simp] theorem emitScreenUpdated_i : (emitScreenUpdated s).i = s.i := rfl
@[simp] theorem emitScreenUpdated_sp : (emitScreenUpdated s).sp = s.sp := rfl
@[simp] theorem emitScreenUpdated_stack : (emitScreenUpdated s).stack = s.stack := rfl
@[simp] theorem emitScreenUpdated_dt : (emitScreenUpdated s).dt = s.dt := rfl
@[simp] theorem emitScreenUpdated_st : (emitScreenUpdated s).st = s.st := rfl
@[simp] theorem emitScreenUpdated_display : (emitScreenUpdated s).display = s.display := rfl
@[simp] theorem emitScreenUpdated_keys : (emitScreenUpdated s).keys = s.keys := rfl
@[simp] theorem emitScreenUpdated_mem : (emitScreenUpdated s).mem = s.mem := rfl
@[simp] theorem emitScreenUpdated_latch : (emitScreenUpdated s).latch = s.latch := rfl
@[simp] theorem emitScreenUpdated_run : (emitScreenUpdated s).run = s.run := rfl
@[simp] theorem emitScreenUpdated_events : (emitScreenUpdated s).events = s.events ++ [.screenUpdated] := rfl
@[simp] theorem emitScreenUpdated_disposed : (emitScreenUpdated s).disposed = s.disposed := rfl
@[simp] theorem emitScreenUpdated_config : (emitScreenUpdated s).config = s.config := rfl
@[simp] theorem emitScreenUpdated_draws : (emitScreenUpdated s).draws = s.draws := rfl
@[simp] theorem emitScreenUpdated_agenda : (emitScreenUpdated s).agenda = s.agenda := rfl
@[simp] theorem emitScreenUpdated_schedule : (emitScreenUpdated s).schedule = s.schedule := rfl
@[simp] theorem readV_emitScreenUpdated (r : Nibble) : readV (emitScreenUpdated s) r = readV s r := by
  simp [readV]
@[simp] theorem readMem_emitScreenUpdated (a : Nat) : readMem (emitScreenUpdated s) a = readMem s a := by
  simp [readMem]

/-! ### countDraw -/

@[simp] theorem countDraw_v : (countDraw s).v = s.v := rfl
@[simp] theorem countDraw_pc : (countDraw s).pc = s.pc := rfl
@[simp] theorem countDraw_i : (countDraw s).i = s.i := rfl
@[simp] theorem countDraw_sp : (countDraw s).sp = s.sp := rfl
@[simp] theorem countDraw_stack : (countDraw s).stack = s.stack := rfl
@[simp] theorem countDraw_dt : (countDraw s).dt = s.dt := rfl
@[simp] theorem countDraw_st : (countDraw s).st = s.st := rfl
@[simp] theorem countDraw_display : (countDraw s).display = s.display := rfl
@[simp] theorem countDraw_keys : (countDraw s).keys = s.keys := rfl
@[simp] theorem countDraw_mem : (countDraw s).mem = s.mem := rfl
@[simp] theorem countDraw_latch : (countDraw s).latch = s.latch := rfl
@[simp] theorem countDraw_run : (countDraw s).run = s.run := rfl
@[simp] theorem countDraw_events : (countDraw s).events = s.events := rfl
@[simp] theorem countDraw_disposed : (countDraw s).disposed = s.disposed := rfl
@[simp] theorem countDraw_config : (countDraw s).config = s.config := rfl
@[simp] theorem countDraw_draws : (countDraw s).draws = s.draws + 1 := rfl
@[simp] theorem countDraw_agenda : (countDraw s).agenda = s.agenda := rfl
@[simp] theorem countDraw_schedule : (countDraw s).schedule = s.schedule := rfl
@[simp] theorem readV_countDraw (r : Nibble) : readV (countDraw s) r = readV s r := by
  simp [readV]
@[simp] theorem readMem_countDraw (a : Nat) : readMem (countDraw s) a = readMem s a := by
  simp [readMem]

end Sys2Proof.Laws
end

