-- ==== Sys2Proof/Laws/Registers.lean ====
section
/-! SUPPORT. Reading after writing in the register file, the flag writer, the stack, and what each
flag-writing operation does to a state. -/

namespace Sys2Proof.Laws

open Sys2Proof.Machine

/-- Two register numbers are the same register exactly when they are equal. -/
theorem nibble_toNat_eq {x y : Nibble} : x.toNat = y.toNat ↔ x = y := BitVec.toNat_inj

/-- A register reads as what was written to it, and a write leaves every other register (R20). -/
@[simp] theorem readV_writeV (s : State) (x y : Nibble) (b : Byte) :
    readV (writeV s x b) y = if x = y then b else readV s y := by
  simp only [readV, writeV_v, Vector.getElem_set, nibble_toNat_eq]

/-- The flag output is a write of 1 or 0 to VF (R21). -/
theorem writeFlag_eq (s : State) (f : Bool) :
    writeFlag s f = writeV s regF (if f then 1 else 0) := rfl

/-- Two register files are equal when every register reads the same. -/
theorem v_eq_of_readV {s t : State} (h : ∀ r, readV s r = readV t r) : s.v = t.v := by
  apply Vector.ext
  intro k hk
  have := h (BitVec.ofNat 4 k)
  simpa [readV, Nat.mod_eq_of_lt hk] using this

/-- `alu_flag` changes the register file alone (R130). -/
theorem aluFlag_eq_setV (op : Byte → Byte → AluOut) (x y : Nibble) (s : State) :
    aluFlag op x y s = setV s (aluFlag op x y s).v := by
  unfold aluFlag
  split <;> rfl

/-- `push` on a stack that is not full (R102). -/
theorem push_of_lt {s : State} {w : Word} (h : s.sp.val < 16) :
    push s w = { s with stack := s.stack.set s.sp.val w h, sp := ⟨s.sp.val + 1, by omega⟩ } := by
  simp [push, h]

/-- The stack is full exactly at SP = 16. -/
theorem stackFull_iff (s : State) : stackFull s = true ↔ s.sp.val = 16 := by
  rw [stackFull, beq_iff_eq, Fin.ext_iff]
  rfl

/-- The stack is empty exactly at SP = 0. -/
theorem stackEmpty_iff (s : State) : stackEmpty s = true ↔ s.sp.val = 0 := by
  rw [stackEmpty, beq_iff_eq, Fin.ext_iff]
  rfl

/-- The entry a pop takes, from a stack that is not empty (R101). -/
theorem topEntry_eq {s : State} (h : 0 < s.sp.val) :
    topEntry s = s.stack[s.sp.val - 1]'(by omega) := by
  simp [topEntry, Vector.getD, show s.sp.val - 1 < 16 by omega]

/-- A register below the bound takes its byte of memory, the others are kept (R165). -/
theorem getElem_loadRegs (m : Memory) (base n : Nat) (v : Vector Byte 16) (k : Nat) (hk : k < 16) :
    (loadRegs m base n v)[k] = if k < n then Memory.read m (base + k) else v[k] := by
  induction n with
  | zero => simp [loadRegs]
  | succ n ih =>
    simp only [loadRegs, Vector.getElem_setIfInBounds, ih]
    by_cases h : n = k
    · simp [h]
    · simp [h, show k < n + 1 ↔ k < n by omega]

end Sys2Proof.Laws
end

