-- ==== Sys2Proof/Laws/Step.lean ====
section
/-! SUPPORT. What a step can do: whose turn it is, and each agent's step by itself. -/

namespace Sys2Proof.Laws

open Sys2Proof.Machine

/-- The core and timer agents are enabled exactly while Running with no fault latched (R271, R272). -/
theorem enabled_iff (s : State) : enabled s = true ↔ s.run = .running ∧ s.latch = none := by
  simp [enabled]

/-- The turn and what is left after it, where one is listed (R270). -/
theorem turn_cons {s : State} {e : AgentEvent} {rest : List AgentEvent} (h : s.agenda = e :: rest) :
    turnNow s = e ∧ turnTaken s = { s with agenda := rest } ∧ deadEnd s = none := by
  simp [turnNow, turnTaken, deadEnd, h]

/-- The turn and what is left after it, on a free schedule: there is always another (R238). -/
theorem turn_free {s : State} {k : Nat} (ha : s.agenda = []) (hs : s.schedule = .free k) :
    turnNow s = Config.turn k ∧ turnTaken s = { s with schedule := .free (k + 1) } ∧ deadEnd s = none := by
  simp [turnNow, turnTaken, deadEnd, ha, hs]

/-- The turn where the core moves alone: the core's, and nothing is used up. -/
theorem turn_coreAlone {s : State} (ha : s.agenda = []) (hs : s.schedule = .coreAlone) :
    turnNow s = .core ∧ turnTaken s = s ∧ deadEnd s = s.latch := by
  simp [turnNow, turnTaken, deadEnd, ha, hs]

/-- Using up a turn changes the agenda and the schedule alone. -/
theorem turnTaken_eq (s : State) :
    turnTaken s = { s with agenda := (turnTaken s).agenda, schedule := (turnTaken s).schedule } := by
  unfold turnTaken
  repeat' split
  all_goals rfl

@[simp] theorem turnTaken_v (s : State) : (turnTaken s).v = s.v := by rw [turnTaken_eq]
@[simp] theorem turnTaken_pc (s : State) : (turnTaken s).pc = s.pc := by rw [turnTaken_eq]
@[simp] theorem turnTaken_i (s : State) : (turnTaken s).i = s.i := by rw [turnTaken_eq]
@[simp] theorem turnTaken_sp (s : State) : (turnTaken s).sp = s.sp := by rw [turnTaken_eq]
@[simp] theorem turnTaken_stack (s : State) : (turnTaken s).stack = s.stack := by rw [turnTaken_eq]
@[simp] theorem turnTaken_dt (s : State) : (turnTaken s).dt = s.dt := by rw [turnTaken_eq]
@[simp] theorem turnTaken_st (s : State) : (turnTaken s).st = s.st := by rw [turnTaken_eq]
@[simp] theorem turnTaken_display (s : State) : (turnTaken s).display = s.display := by rw [turnTaken_eq]
@[simp] theorem turnTaken_keys (s : State) : (turnTaken s).keys = s.keys := by rw [turnTaken_eq]
@[simp] theorem turnTaken_mem (s : State) : (turnTaken s).mem = s.mem := by rw [turnTaken_eq]
@[simp] theorem turnTaken_latch (s : State) : (turnTaken s).latch = s.latch := by rw [turnTaken_eq]
@[simp] theorem turnTaken_run (s : State) : (turnTaken s).run = s.run := by rw [turnTaken_eq]
@[simp] theorem turnTaken_events (s : State) : (turnTaken s).events = s.events := by rw [turnTaken_eq]
@[simp] theorem turnTaken_disposed (s : State) : (turnTaken s).disposed = s.disposed := by rw [turnTaken_eq]
@[simp] theorem turnTaken_config (s : State) : (turnTaken s).config = s.config := by rw [turnTaken_eq]
@[simp] theorem turnTaken_draws (s : State) : (turnTaken s).draws = s.draws := by rw [turnTaken_eq]
@[simp] theorem readV_turnTaken (s : State) (r : Nibble) : readV (turnTaken s) r = readV s r := by
  simp [readV]
@[simp] theorem readMem_turnTaken (s : State) (a : Nat) : readMem (turnTaken s) a = readMem s a := by
  simp [readMem]
@[simp] theorem fetchWord_turnTaken (s : State) : fetchWord (turnTaken s) = fetchWord s := by
  simp [fetchWord]
@[simp] theorem enabled_turnTaken (s : State) : enabled (turnTaken s) = enabled s := by
  simp [enabled]

/-- The machine is at a dead end only where a fault is latched and it is the core's turn. -/
theorem deadEnd_some {s : State} {r : FaultRecord} (h : deadEnd s = some r) :
    s.agenda = [] ∧ s.schedule = .coreAlone ∧ s.latch = some r ∧ turnNow s = .core := by
  unfold deadEnd at h
  split at h
  · exact ⟨‹_›, ‹_›, h, (turn_coreAlone ‹_› ‹_›).1⟩
  · cases h

/-- Where no fault is latched there is no dead end. -/
theorem deadEnd_of_latch {s : State} (h : s.latch = none) : deadEnd s = none := by
  unfold deadEnd
  split <;> first | exact h | rfl

/-- The step of a machine that is not at a dead end: the agent whose turn it is moves (R270). -/
theorem step_of_turn {s : State} (h : deadEnd s = none) : step s = performEvent (turnNow s) (turnTaken s) := by
  simp [step, agentStep, h]

/-- The step at a dead end (R252). -/
theorem step_deadEnd {s : State} {r : FaultRecord} (h : deadEnd s = some r) : step s = .fault (faultOf r) := by
  simp [step, agentStep, h]

/-- Where the turn is not the core's there is no dead end, and that agent moves (R270). -/
theorem step_of_not_core {s : State} (h : turnNow s ≠ .core) :
    step s = performEvent (turnNow s) (turnTaken s) := by
  cases hd : deadEnd s with
  | none => exact step_of_turn hd
  | some r => exact absurd (deadEnd_some hd).2.2.2 h

/-- The core's step where it is enabled is one whole instruction (R271). -/
theorem coreStep_enabled {s : State} (h : enabled s = true) : coreStep s = runInstruction s := by
  simp [coreStep, h]

/-- The core's step where it is not enabled changes nothing. -/
theorem coreStep_disabled {s : State} (h : enabled s = false) : coreStep s = .next s := by
  simp [coreStep, h]

/-- Running a word that decodes is executing its instruction (R73, R88). -/
theorem runInstruction_ok {s : State} {i : Instr}
    (h : decodeWord s.config.strict59 (fetchWord s) = .ok i) : runInstruction s = exec i s := by
  simp [runInstruction, h]

/-- Running an Unknown word takes the decode fault (R255). -/
theorem runInstruction_error {s : State} {e : DecodeError}
    (h : decodeWord s.config.strict59 (fetchWord s) = .error e) :
    runInstruction s = raiseFault .decode (fetchWord s) s := by
  simp [runInstruction, h]

/-- Everything a step that answers a next state can be: one of the three agents' steps on the state whose
turn is used up (R270). -/
theorem step_cases {s t : State} (h : step s = .next t) :
    (turnNow s = .core ∧ coreStep (turnTaken s) = .next t) ∨
    (turnNow s = .tick ∧ timerStep (turnTaken s) = .next t) ∨
    (∃ c, turnNow s = .host c ∧ t = hostCall c (turnTaken s)) := by
  cases hd : deadEnd s with
  | some r => rw [step_deadEnd hd] at h; cases h
  | none =>
    rw [step_of_turn hd] at h
    cases ht : turnNow s with
    | core => exact .inl ⟨rfl, by rwa [ht] at h⟩
    | tick => exact .inr (.inl ⟨rfl, by rwa [ht] at h⟩)
    | host c =>
      simp only [ht, performEvent, Host.Outcome.next.injEq] at h
      exact .inr (.inr ⟨c, rfl, h.symm⟩)

/-- The core's step is the instruction, the decode fault, or nothing where it is not enabled (R271). -/
theorem coreStep_cases {s t : State} (h : coreStep s = .next t) :
    (enabled s = false ∧ t = s) ∨
    (enabled s = true ∧ ∃ i, decodeWord s.config.strict59 (fetchWord s) = .ok i ∧ exec i s = .next t) ∨
    (enabled s = true ∧ (∃ e, decodeWord s.config.strict59 (fetchWord s) = .error e) ∧
      t = { s with latch := some ⟨.decode, s.pc, fetchWord s⟩ }) := by
  cases he : enabled s
  · rw [coreStep_disabled he] at h
    cases h
    exact .inl ⟨rfl, rfl⟩
  · rw [coreStep_enabled he] at h
    cases hd : decodeWord s.config.strict59 (fetchWord s) with
    | ok i => exact .inr (.inl ⟨rfl, i, rfl, by rwa [runInstruction_ok hd] at h⟩)
    | error e =>
      rw [runInstruction_error hd] at h
      cases h
      exact .inr (.inr ⟨rfl, ⟨e, rfl⟩, rfl⟩)

/-- The timer's step is a tick, or nothing where it is not enabled (R272). -/
theorem timerStep_cases {s t : State} (h : timerStep s = .next t) :
    (enabled s = false ∧ t = s) ∨ (enabled s = true ∧ t = tick s) := by
  unfold timerStep at h
  cases he : enabled s <;> simp [he] at h
  · exact .inl ⟨rfl, h.symm⟩
  · exact .inr ⟨rfl, h.symm⟩

/-- The flag writer leaves the turns to come. -/
theorem aluFlag_turns (op : Byte → Byte → AluOut) (x y : Nibble) (s : State) :
    (aluFlag op x y s).agenda = s.agenda ∧ (aluFlag op x y s).schedule = s.schedule := by
  unfold aluFlag
  cases s.config.vfOrder <;> exact ⟨rfl, rfl⟩

/-- No instruction changes the turns to come. -/
theorem exec_turns {i : Instr} {s t : State} (h : exec i s = .next t) :
    t.agenda = s.agenda ∧ t.schedule = s.schedule := by
  cases i
  case ret =>
    simp only [exec, execRet] at h
    split at h <;> cases h <;> exact ⟨rfl, rfl⟩
  case call =>
    simp only [exec, execCall] at h
    split at h <;> cases h <;> simp
  case ldVxK =>
    simp only [exec, execLdVxK] at h
    split at h
    · simp only [keyWaitBlock] at h
      split at h <;> cases h <;> exact ⟨rfl, rfl⟩
    · cases h
      exact ⟨rfl, rfl⟩
  all_goals cases h
  all_goals first | exact ⟨rfl, rfl⟩ | simp [aluFlag_turns]

/-- No agent's step changes the turns to come: only using one up does. -/
theorem performEvent_turns {e : AgentEvent} {s t : State} (h : performEvent e s = .next t) :
    t.agenda = s.agenda ∧ t.schedule = s.schedule := by
  cases e with
  | core =>
    rcases coreStep_cases h with ⟨-, rfl⟩ | ⟨-, i, -, hx⟩ | ⟨-, -, rfl⟩
    · exact ⟨rfl, rfl⟩
    · exact exec_turns hx
    · exact ⟨rfl, rfl⟩
  | tick => rcases timerStep_cases h with ⟨-, rfl⟩ | ⟨-, rfl⟩ <;> exact ⟨rfl, rfl⟩
  | host c =>
    cases h
    unfold hostCall
    split
    · exact ⟨rfl, rfl⟩
    · cases c with
      | start =>
        simp only [takeCall, startMachine]
        split <;> exact ⟨rfl, rfl⟩
      | _ => exact ⟨rfl, rfl⟩

/-- The fetched word depends on memory and pc alone (R70). -/
theorem fetchWord_congr {s t : State} (hm : t.mem = s.mem) (hp : t.pc = s.pc) : fetchWord t = fetchWord s := by
  simp [fetchWord, readMem, hm, hp]

@[simp] theorem coreTurnFirst_pc (s : State) : (coreTurnFirst s).pc = s.pc := by
  unfold coreTurnFirst; split <;> rfl
@[simp] theorem coreTurnFirst_mem (s : State) : (coreTurnFirst s).mem = s.mem := by
  unfold coreTurnFirst; split <;> rfl

/-- A word written at pc and pc + 1, its high byte first, is the word fetched there (R55, R61, R70). -/
theorem fetchWord_placedAtPc (s : State) (w : Word) : fetchWord (placedAtPc s w) = w := by
  have h : ∀ a : Nat, (a + 1) % memSize ≠ a % memSize := fun a => by simp only [memSize]; omega
  simp [fetchWord, readMem, placedAtPc, Memory.writeBytes, h]

end Sys2Proof.Laws
end

