-- ==== Sys2Proof/Tests/Slice0.lean ====
section
/-! SUPPORT. Tests of the model against the words and vectors of spec/95_test_vectors.md, and a witness for
every statement of Sys2Proof/Certificates/Slice0/Obligations.lean that has hypotheses. The expected values
are the spec's; each test names its vector. -/

-- One theorem after the other: many kernel evaluations at once would each take a thread.
set_option Elab.async false

namespace Sys2Proof.Tests

open Sys2Proof.Machine Sys2Proof.Safety

/-! ### Small states -/

/-- The started machine with one word at 0x200. -/
def at200 (w : Nat) : State := State.reset.withFetchWord 16 w

/-- Registers set one after the other. -/
def withV (s : State) : List (Nibble × Byte) → State
  | [] => s
  | (x, b) :: more => withV (writeV s x b) more

/-- Memory bytes set from an address on. -/
def withMem (s : State) (a : Nat) (bs : List Byte) : State := setMem s (Memory.writeBytes s.mem a bs)

/-- What a step's next state shows, if it answers one. -/
def seen {α : Type} (f : State → α) : Result → Option α
  | .next t => some (f t)
  | _ => none

/-- A key pressed. -/
def withKey (s : State) (k : Fin 16) : State := setKey k true s

/-- Some cells of the display, each a column and a row. -/
def cellsAt (d : Display) (cs : List (Nat × Nat)) : List Bool := cs.map (fun c => Display.cell d c.1 c.2)

/-! ### Well-formedness (R80) -/

theorem test_wf_seReg_refused : (Instr.seReg 1 2 1).wellFormed true = false := by decide
theorem test_wf_sneReg_refused : (Instr.sneReg 0xA 0xB 0xF).wellFormed true = false := by decide
theorem test_wf_seReg_loose : (Instr.seReg 1 2 1).wellFormed false = true := by decide
theorem test_wf_seReg_strict : (Instr.seReg 1 2 0).wellFormed true = true := by decide
theorem test_wf_sneReg_strict : (Instr.sneReg 1 2 0).wellFormed true = true := by decide

/-! ### Decoding: a word for every constructor, its fields written bit by bit (R72, R75) -/

theorem test_decode_cls : decodeTableWord 16 0b0000000011100000 = some .cls := by decide
theorem test_decode_ret : decodeTableWord 16 0b0000000011101110 = some .ret := by decide
theorem test_decode_jp : decodeTableWord 16 0b0001101010111100 = some (.jp 0xABC) := by decide
theorem test_decode_call : decodeTableWord 16 0b0010001101000101 = some (.call 0x345) := by decide
theorem test_decode_seImm : decodeTableWord 16 0b0011101000010010 = some (.seImm 0xA 0x12) := by decide
theorem test_decode_sneImm : decodeTableWord 16 0b0100000100000001 = some (.sneImm 0x1 0x01) := by decide
theorem test_decode_seReg : decodeTableWord 16 0b0101001000110000 = some (.seReg 0x2 0x3 0x0) := by decide
theorem test_decode_ldImm : decodeTableWord 16 0b0110010100101010 = some (.ldImm 0x5 0x2A) := by decide
theorem test_decode_addImm : decodeTableWord 16 0b0111000000001010 = some (.addImm 0x0 0x0A) := by decide
theorem test_decode_ldReg : decodeTableWord 16 0b1000001000110000 = some (.ldReg 0x2 0x3) := by decide
theorem test_decode_orReg : decodeTableWord 16 0b1000000000010001 = some (.orReg 0x0 0x1) := by decide
theorem test_decode_andReg : decodeTableWord 16 0b1000000000010010 = some (.andReg 0x0 0x1) := by decide
theorem test_decode_xorReg : decodeTableWord 16 0b1000000000010011 = some (.xorReg 0x0 0x1) := by decide
theorem test_decode_addReg : decodeTableWord 16 0b1000000000010100 = some (.addReg 0x0 0x1) := by decide
theorem test_decode_sub : decodeTableWord 16 0b1000000000010101 = some (.sub 0x0 0x1) := by decide
theorem test_decode_shr : decodeTableWord 16 0b1000000000010110 = some (.shr 0x0 0x1) := by decide
theorem test_decode_subn : decodeTableWord 16 0b1000000000010111 = some (.subn 0x0 0x1) := by decide
theorem test_decode_shl : decodeTableWord 16 0b1000000000011110 = some (.shl 0x0 0x1) := by decide
theorem test_decode_sneReg : decodeTableWord 16 0b1001101010111111 = some (.sneReg 0xA 0xB 0xF) := by decide
theorem test_decode_ldI : decodeTableWord 16 0b1010001100000000 = some (.ldI 0x300) := by decide
theorem test_decode_jpV0 : decodeTableWord 16 0b1011000100100011 = some (.jpV0 0x123) := by decide
theorem test_decode_rnd : decodeTableWord 16 0b1100010000001111 = some (.rnd 0x4 0x0F) := by decide
theorem test_decode_drw : decodeTableWord 16 0b1101000000010010 = some (.drw 0x0 0x1 0x2) := by decide
theorem test_decode_skp : decodeTableWord 16 0b1110000110011110 = some (.skp 0x1) := by decide
theorem test_decode_sknp : decodeTableWord 16 0b1110000110100001 = some (.sknp 0x1) := by decide
theorem test_decode_ldVxDT : decodeTableWord 16 0b1111000100000111 = some (.ldVxDT 0x1) := by decide
theorem test_decode_ldVxK : decodeTableWord 16 0b1111001000001010 = some (.ldVxK 0x2) := by decide
theorem test_decode_ldDTVx : decodeTableWord 16 0b1111000000010101 = some (.ldDTVx 0x0) := by decide
theorem test_decode_ldSTVx : decodeTableWord 16 0b1111001100011000 = some (.ldSTVx 0x3) := by decide
theorem test_decode_addI : decodeTableWord 16 0b1111001100011110 = some (.addI 0x3) := by decide
theorem test_decode_ldF : decodeTableWord 16 0b1111000000101001 = some (.ldF 0x0) := by decide
theorem test_decode_ldB : decodeTableWord 16 0b1111101000110011 = some (.ldB 0xA) := by decide
theorem test_decode_ldStore : decodeTableWord 16 0b1111001001010101 = some (.ldStore 0x2) := by decide
theorem test_decode_ldLoad : decodeTableWord 16 0b1111001101100101 = some (.ldLoad 0x3) := by decide

/-- The Unknown words of 95_test_vectors.md B.1. -/
theorem test_decode_unknown :
    [0x0000, 0x00E1, 0x0123, 0x0FFF, 0x8008, 0x800F, 0xE09F, 0xF000, 0xFFFF].map (decodeTableWord 16)
      = List.replicate 9 none := by decide

/-- 5121 and 9ABF under STRICT_5_9 = true (B.1). -/
theorem test_decode_strict :
    decodeWord true 0x5121 = .error (.unknown 0x5121) ∧ decodeWord true 0x9ABF = .error (.unknown 0x9ABF) := by
  decide

/-- A lone byte does not decode. -/
theorem test_decode_truncated : decodeBytes false [0x60] = .error .truncated := by decide

/-! ### Control flow (95_test_vectors.md B.2) -/

/-- CF1 and CF2. -/
theorem test_jp : seen State.pc (step (at200 0x1ABC)) = some 0xABC ∧
    seen State.pc (step (at200 0x1000)) = some 0 := by decide +kernel

/-- CF4. -/
theorem test_call : seen (fun t => (t.pc, t.sp.val, t.stack[0])) (step (at200 0x2345))
    = some (0x345, 1, 0x200) := by decide +kernel

/-- CF6: at SP = 16 the latch is set and pc stays. -/
theorem test_call_full : seen (fun t => (t.pc, t.sp.val, t.latch))
    (step (State.withFetchWord { State.reset with pc := 0x400, sp := 16 } 16 0x2500))
      = some (0x400, 16, some ⟨.stackOverflow, 0x400, 0x2500⟩) := by decide +kernel

/-- CF7 and CF9. -/
theorem test_ret :
    seen (fun t => (t.pc, t.sp.val, t.stack[0]))
      (step (State.withFetchWord { push State.reset 0x204 with pc := 0x212 } 16 0x00EE)) = some (0x206, 0, 0x204) ∧
    seen State.pc (step (State.withFetchWord (push State.reset 0xFFFE) 16 0x00EE)) = some 0 := by decide +kernel

/-- CF8. -/
theorem test_ret_empty : seen (fun t => (t.pc, t.sp.val, t.latch)) (step (at200 0x00EE))
    = some (0x200, 0, some ⟨.stackUnderflow, 0x200, 0x00EE⟩) := by decide +kernel

/-- CF12: a skip at 0xFFFE, fetched from 0xFFE and 0xFFF. -/
theorem test_seImm_wraps :
    seen State.pc (step (State.withFetchWord { State.reset with pc := 0xFFFE } 16 0x3000)) = some 2 := by
  decide +kernel

/-- CF13 and CF14. -/
theorem test_sneImm : seen State.pc (step (at200 0x4101)) = some 0x204 ∧
    seen State.pc (step (writeV (at200 0x4101) 1 1)) = some 0x202 := by decide +kernel

/-- CF15 and CF17. -/
theorem test_seReg : seen State.pc (step (withV (at200 0x5231) [(2, 7), (3, 7)])) = some 0x204 := by
  decide +kernel

/-- CF18 and CF19. -/
theorem test_sneReg : seen State.pc (step (withV (at200 0x9230) [(2, 7), (3, 8)])) = some 0x204 ∧
    seen State.pc (step (writeV (at200 0x9330) 3 9)) = some 0x202 := by decide +kernel

/-- CF21 and CF22. -/
theorem test_jpV0 : seen State.pc (step (writeV (at200 0xBFFF) 0 0xFF)) = some 0x10FE ∧
    seen State.pc (step (withV (at200 0xB123) [(0, 1), (1, 0x40)])) = some 0x124 := by decide +kernel

/-! ### Register loads, ALU and random (B.3) -/

/-- AL1 and AL2. -/
theorem test_ldImm : seen (readV · 5) (step (at200 0x652A)) = some 0x2A ∧
    seen (readV · 0xF) (step (writeV (at200 0x6F01) 0xF 0x55)) = some 0x01 := by decide +kernel

/-- AL4. -/
theorem test_addImm : seen (fun t => (readV t 0, readV t 0xF))
    (step (withV (at200 0x7001) [(0, 0xFF), (0xF, 0x55)])) = some (0x00, 0x55) := by decide +kernel

/-- AL6. -/
theorem test_ldReg : seen (readV · 2) (step (writeV (at200 0x8230) 3 0x11)) = some 0x11 := by decide +kernel

/-- AL7. -/
theorem test_orReg : seen (fun t => (readV t 0, readV t 0xF))
    (step (withV (at200 0x8011) [(0, 0xF0), (1, 0x0F), (0xF, 0x55)])) = some (0xFF, 0x55) := by decide +kernel

/-- AL8. -/
theorem test_andReg : seen (readV · 0) (step (withV (at200 0x8012) [(0, 0xF0), (1, 0x3C)])) = some 0x30 := by
  decide +kernel

/-- AL9. -/
theorem test_xorReg : seen (readV · 0) (step (withV (at200 0x8013) [(0, 0xF0), (1, 0x3C)])) = some 0xCC := by
  decide +kernel

/-- AL11 and AL12: the sums 255 and 256. -/
theorem test_addReg :
    seen (fun t => (readV t 0, readV t 0xF)) (step (withV (at200 0x8014) [(0, 0x80), (1, 0x7F)])) = some (0xFF, 0) ∧
    seen (fun t => (readV t 0, readV t 0xF)) (step (withV (at200 0x8014) [(0, 0x80), (1, 0x80)])) = some (0, 1) := by
  decide +kernel

/-- AL14, in both orders: ADD VF,V1 with VF = 0xFF and V1 = 1. -/
theorem test_addReg_order :
    seen (readV · 0xF) (step (withV (at200 0x8F14) [(0xF, 0xFF), (1, 1)])) = some 1 ∧
    seen (readV · 0xF) (step { withV (at200 0x8F14) [(0xF, 0xFF), (1, 1)] with
      config := { defaultConfig with vfOrder := .flagFirst } }) = some 2 := by decide +kernel

/-- AL16 and S3. -/
theorem test_sub :
    seen (fun t => (readV t 0, readV t 0xF)) (step (withV (at200 0x8015) [(0, 7), (1, 7)])) = some (0, 0) ∧
    seen (fun t => (readV t 0, readV t 0xF)) (step (withV (at200 0x8015) [(0, 5), (1, 10)])) = some (251, 0) := by
  decide +kernel

/-- AL24 and AL26: the flag comes from V1; under SHIFT_SOURCE = y so does the result. -/
theorem test_shr :
    seen (fun t => (readV t 0, readV t 0xF)) (step (withV (at200 0x8016) [(0, 1), (1, 0)])) = some (0, 0) ∧
    seen (fun t => (readV t 0, readV t 0xF)) (step { withV (at200 0x8016) [(0, 0xFF), (1, 4)] with
      config := { defaultConfig with shiftSource := .y } }) = some (2, 0) := by decide +kernel

/-- AL27, in both orders: SHR VF,V1 with VF = 3 and V1 = 1. -/
theorem test_shr_order :
    seen (readV · 0xF) (step (withV (at200 0x8F16) [(0xF, 3), (1, 1)])) = some 1 ∧
    seen (readV · 0xF) (step { withV (at200 0x8F16) [(0xF, 3), (1, 1)] with
      config := { defaultConfig with vfOrder := .flagFirst } }) = some 0 := by decide +kernel

/-- AL20 and AL21. -/
theorem test_subn :
    seen (fun t => (readV t 0, readV t 0xF)) (step (withV (at200 0x8017) [(0, 5), (1, 10)])) = some (5, 1) ∧
    seen (fun t => (readV t 0, readV t 0xF)) (step (withV (at200 0x8017) [(0, 10), (1, 5)])) = some (251, 0) := by
  decide +kernel

/-- AL28 and AL29. -/
theorem test_shl :
    seen (fun t => (readV t 0, readV t 0xF)) (step (withV (at200 0x801E) [(0, 0x81), (1, 0x80)])) = some (2, 1) ∧
    seen (fun t => (readV t 0, readV t 0xF)) (step (withV (at200 0x801E) [(0, 0x80), (1, 0)])) = some (0, 0) := by
  decide +kernel

/-- AL33 and AL34: with kk = 0 the result is 0 whatever the draw, with kk = 0xFF it is the draw. -/
theorem test_rnd (k : Nat) :
    seen (readV · 4) (exec (.rnd 4 0) { State.reset with draws := k }) = some 0 ∧
    seen (readV · 4) (exec (.rnd 4 0xFF) { State.reset with draws := k }) = some (Config.draw k) :=
  ⟨congrArg some BitVec.and_zero, congrArg some BitVec.and_allOnes⟩

/-! ### Index register and memory (B.4) -/

/-- IM2. -/
theorem test_ldI : seen State.i (step { at200 0xA123 with i := 0x1003 }) = some 0x123 := by decide +kernel

/-- IM3 and IM4. -/
theorem test_addI :
    seen (fun t => (t.i, readV t 0xF)) (step { withV (at200 0xF31E) [(3, 5), (0xF, 0x55)] with i := 0xFFE })
      = some (0x1003, 0x55) ∧
    seen State.i (step { writeV (at200 0xF01E) 0 1 with i := 0xFFFF }) = some 0 := by decide +kernel

/-- IM6 and IM7. -/
theorem test_ldF : seen State.i (step (writeV (at200 0xF029) 0 0x1A)) = some 0x032 ∧
    seen State.i (step (writeV (at200 0xF029) 0 0x0F)) = some 0x04B := by decide +kernel

/-- IM10: the digits of 123 at 0xFFF, 0x000 and 0x001. -/
theorem test_ldB : seen (fun t => [readMem t 0xFFF, readMem t 0, readMem t 1])
    (step { writeV (at200 0xF033) 0 123 with i := 0xFFF }) = some [1, 2, 3] := by decide +kernel

/-- IM11: V0 and V1 are stored, V2 is not. -/
theorem test_ldStore : seen (fun t => (Memory.readBytes t.mem 0x400 3, t.i))
    (step { withMem (withV (at200 0xF255) [(0, 0x11), (1, 0x22), (2, 0x33)]) 0x402 [0xAA] with i := 0x400 })
      = some ([0x11, 0x22, 0xAA], 0x400) := by decide +kernel

/-- IM15. -/
theorem test_ldLoad : seen (fun t => (readV t 0, readV t 1, readV t 2, readV t 3, t.i))
    (step { withMem (writeV (at200 0xF365) 3 0x77) 0x300 [1, 5, 6] with i := 0x300 })
      = some (1, 5, 6, 0x77, 0x300) := by decide +kernel

/-! ### Display (B.5) -/

/-- DI1: VF is kept. -/
theorem test_cls : seen (fun t => (cellsAt t.display [(0, 0), (63, 31)], t.events, readV t 0xF))
    (step { writeV (at200 0x00E0) 0xF 0x55 with display := Display.toggle clearedDisplay 63 31 })
      = some ([false, false], [.screenUpdated], 0x55) := by decide +kernel

/-- DI2: the byte 0xFF at (63, 0) wraps to columns 0 to 6. -/
theorem test_drw_wraps : seen (fun t =>
      (cellsAt t.display [(62, 0), (63, 0), (0, 0), (6, 0), (7, 0), (0, 1)], readV t 0xF))
    (step { withMem (writeV (at200 0xD011) 0 63) 0x300 [0xFF] with i := 0x300 })
      = some ([false, true, true, true, false, false], 0) := by decide +kernel

/-- DI8: (0,0) is turned off, (1,0) stays, (2,0) is turned on. -/
theorem test_drw_collides : seen (fun t =>
      (cellsAt t.display [(0, 0), (1, 0), (2, 0), (3, 0)], readV t 0xF, t.events))
    (step { withMem (at200 0xD011) 0x300 [0xA0] with
      i := 0x300, display := Display.toggle (Display.toggle clearedDisplay 0 0) 1 0 })
      = some ([false, true, true, false], 1, [.screenUpdated]) := by decide +kernel

/-! ### Keys and timers (B.6) -/

/-- KT1 and KT2. -/
theorem test_skp : seen State.pc (step (withKey (writeV (at200 0xE19E) 1 3) 3)) = some 0x204 ∧
    seen State.pc (step (withKey (withKey (writeV (at200 0xE19E) 1 5) 5) 2)) = some 0x202 := by decide +kernel

/-- KT7: NO_KEY = 0xFF. -/
theorem test_skp_noKey : seen State.pc (step { writeV (at200 0xE19E) 1 0xFF with
    config := { defaultConfig with noKey := .byte 0xFF } }) = some 0x204 := by decide +kernel

/-- KT3 and KT5. -/
theorem test_sknp : seen State.pc (step (withKey (withKey (writeV (at200 0xE1A1) 1 5) 5) 2)) = some 0x204 ∧
    seen State.pc (step (writeV (at200 0xE1A1) 1 3)) = some 0x204 := by decide +kernel

/-- KT8 and KT10. -/
theorem test_ldVxK : seen (fun t => (t.pc, readV t 2)) (step (at200 0xF20A)) = some (0x200, 0) ∧
    seen (fun t => (t.pc, readV t 2)) (step (withKey (withKey (at200 0xF20A) 9) 4)) = some (0x202, 4) := by
  decide +kernel

/-- KT12. -/
theorem test_ldVxDT : seen (readV · 0) (step { at200 0xF007 with dt := 0x3C }) = some 0x3C := by decide +kernel

/-- KT13. -/
theorem test_ldDTVx : seen State.dt (step (writeV (at200 0xF015) 0 5)) = some 5 := by decide +kernel

/-- KT14. -/
theorem test_ldSTVx : seen (fun t => (t.st, soundOn t)) (step (writeV (at200 0xF318) 3 2)) = some (2, true) := by
  decide +kernel

/-- KT15 and KT16. -/
theorem test_tick :
    seen (fun t => (t.st, t.dt, soundOn t)) (step { at200 0 with st := 1, agenda := [.tick] }) = some (0, 0, false) ∧
    seen (fun t => (t.st, t.dt)) (step { at200 0 with dt := 5, agenda := [.tick] }) = some (0, 4) := by
  decide +kernel

/-! ### Faults, reset and lifecycle (B.7) -/

/-- AL35: an Unknown word latches the decode fault. -/
theorem test_decodeFault : seen (fun t => (t.pc, readV t 0, t.latch)) (step (writeV (at200 0x8008) 0 1))
    = some (0x200, 1, some ⟨.decode, 0x200, 0x8008⟩) := by decide +kernel

/-- A latched machine with nothing pending stops under the fault's own name. -/
theorem test_latched_stops : step { at200 0 with latch := some ⟨.decode, 0x200, 0⟩ } = .fault (.decode 0x200 0) :=
  rfl

/-- From construction the first turn is free, and using it up leaves the next one (log entry 2). -/
theorem test_free_turn : turnNow State.reset = Config.turn 0 ∧
    turnTaken State.reset = { State.reset with schedule := .free 1 } := ⟨rfl, rfl⟩

/-- FR1 and FR7: neither start nor a tick does anything while a fault is latched. -/
theorem test_latched_passes :
    seen (fun t => (t.run, t.dt)) (step { State.reset with
      dt := 3, latch := some ⟨.decode, 0x200, 0⟩, agenda := [.host .start] }) = some (.stopped, 3) ∧
    seen (fun t => (t.run, t.dt)) (step { at200 0 with
      dt := 3, latch := some ⟨.decode, 0x200, 0⟩, agenda := [.tick] }) = some (.running, 3) := by decide +kernel

/-- FR2 and FR6: load clears the latch, copies the image, keeps the keys and does not start. -/
theorem test_load : seen (fun t => (t.latch, t.run, t.keys[5], Memory.readBytes t.mem 0x200 3))
    (step { withKey (at200 0) 5 with latch := some ⟨.decode, 0x200, 0⟩, agenda := [.host (.load [0x12, 0x34])] })
      = some (none, .stopped, true, [0x12, 0x34, 0]) := by decide +kernel

/-- A word placed for the fetch runs as the first instruction after reset (log entry 12). -/
theorem test_withFetchWord : seen (readV · 5) (step (State.reset.withFetchWord 16 0x652A)) = some 0x2A := by
  decide +kernel

/-! ### Witnesses: states that meet the hypotheses of each statement -/

theorem witness_DecodeOfEncode : (Instr.seReg 1 2 0).wellFormed true = true ∧
    (Instr.sneReg 1 2 0xF).wellFormed false = true ∧ (Instr.ldLoad 0xF).wellFormed true = true := by decide

theorem witness_EncodeOfDecode : decodeWord true 0x5120 = .ok (.seReg 1 2 0) ∧
    decodeWord false 0x9ABF = .ok (.sneReg 0xA 0xB 0xF) := by decide

theorem witness_StepRunsDecodedInstruction :
    CoreRuns (at200 0x652A) (.ldImm 5 0x2A) ∧ (at200 0x652A).agenda = [] ∧ (at200 0x652A).schedule = .coreAlone ∧
    CoreRuns { at200 0x652A with agenda := [.core, .tick] } (.ldImm 5 0x2A) :=
  ⟨⟨rfl, rfl, rfl, by decide +kernel⟩, rfl, rfl, ⟨rfl, rfl, rfl, by decide +kernel⟩⟩

theorem witness_UnknownWordTakesDecodeFault : CoreNext (at200 0x8008) ∧ (at200 0x8008).run = .running ∧
    (at200 0x8008).latch = none ∧ Unknown false (fetchWord (at200 0x8008)) :=
  ⟨rfl, rfl, rfl, .inr (.inl (by decide +kernel))⟩

theorem witness_Unknown_strict : Unknown true 0x5121 ∧ ¬ Unknown false 0x5120 :=
  ⟨.inr (.inr (.inr (.inr (by decide)))), by unfold Unknown; decide⟩

theorem witness_CallPushesOwnAddress :
    State.reset.sp.val < 16 ∧ ({ State.reset with sp := 15 } : State).sp.val < 16 ∧
    ({ State.reset with sp := 16 } : State).sp.val = 16 := by decide

theorem witness_ReturnResumesAfterCall :
    ({ State.reset with sp := 1 } : State).sp.val = 0 + 1 ∧ ({ State.reset with sp := 16 } : State).sp.val = 15 + 1 ∧
    State.reset.sp.val = 0 := by decide

theorem witness_RegisterSkips :
    (State.reset.config.strict59 = false ∨ (0xF : Nibble) = 0) ∧
    (({ defaultConfig with strict59 := true } : Config).strict59 = false ∨ (0 : Nibble) = 0) :=
  ⟨.inl rfl, .inr rfl⟩

/-- Sites past 0xFFF too. -/
theorem witness_StackRoundTrip : State.reset.sp.val = 0 ∧
    (List.replicate 16 ((0x10FE, 0x300) : Word × Addr)).length ≤ 16 ∧ ([] : List (Word × Addr)).length ≤ 16 := by
  decide

/-- x = 1 with y = 2, x = F with y = 1, and both write orders. -/
theorem witness_FlagRule : (1 : Nibble) ≠ 0xF ∧ State.reset.config.vfOrder = .flagLast ∧
    ({ defaultConfig with vfOrder := .flagFirst } : Config).vfOrder = .flagFirst := by decide

theorem witness_StoreSeenByNextFetch :
    2 ≤ (2 : Nibble).toNat ∧
    dataAddr { at200 0xF255 with i := 0x202 } 0 % 4096 = ((at200 0xF255).pc.toNat + 2) % 4096 := by decide +kernel

theorem witness_LoadRegistersExclusive :
    (0xE : Nibble).toNat < (0xF : Nibble).toNat ∧ ¬ (0xF : Nibble).toNat < (0xF : Nibble).toNat := by decide

/-- A covered cell, lit and not. -/
theorem witness_SpriteCovers :
    SpriteCovers { withMem (writeV (at200 0xD011) 0 63) 0x300 [0xFF] with i := 0x300 } 0 1 1 0 0 :=
  ⟨0, 1, by decide +kernel⟩

/-- With height 0 no cell is covered. -/
theorem witness_SpriteCovers_none (s : State) : ¬ ∃ cx cy, SpriteCovers s 0 1 0 cx cy := by
  rintro ⟨cx, cy, r, c, h, -⟩
  exact absurd h (Nat.not_lt_zero r)

theorem witness_DrawTwiceRestores : (List.replicate 15 (0xFF : Byte)).length ≤ 15 ∧
    (∃ b ∈ List.replicate 15 (0xFF : Byte), b ≠ 0) ∧ ([] : List Byte).length ≤ 15 := by decide

/-- The lowest pressed key at both ends of its range, and no key. -/
theorem witness_Keys :
    LowestPressed (withKey State.reset 15) 15 ∧ LowestPressed (withKey (withKey State.reset 0) 15) 0 ∧
    NoKeyPressed State.reset := by
  unfold LowestPressed NoKeyPressed
  decide +kernel

/-- Both modes of LD Vx,K. -/
theorem witness_KeyWaitBlocksOrDraws : (withKey State.reset 15).config.keyWait = .block ∧
    ({ defaultConfig with keyWait := .stub } : Config).keyWait = .stub := by decide +kernel

theorem witness_TickCountsDown : TimerTicks { at200 0 with agenda := [.tick] } := ⟨rfl, rfl, rfl⟩

theorem witness_TimerDecay : ({ at200 0 with agenda := List.replicate 300 .tick ++ [.core] } : State).run = .running ∧
    (at200 0).latch = none ∧
    ({ at200 0 with agenda := List.replicate 300 .tick ++ [.core] } : State).agenda
      = List.replicate 300 .tick ++ [.core] := ⟨rfl, rfl, rfl⟩

/-- The invariant holds of a Stopped machine whose core moves alone, and its step answers a next state. -/
theorem witness_EveryStepKeepsInv : Inv { State.reset with schedule := .coreAlone } ∧
    step { State.reset with schedule := .coreAlone } = .next { State.reset with schedule := .coreAlone } :=
  ⟨⟨⟨List.Pairwise.nil, fun _ h => absurd h List.not_mem_nil⟩, fun _ => rfl, trivial, fun _ h => nomatch h⟩, rfl⟩

theorem witness_FaultsArePrecise :
    exec .ret State.reset = .next { State.reset with latch := some ⟨.stackUnderflow, 0x200, 0x00EE⟩ } ∧
    exec (.call 0x200) { State.reset with sp := 16 }
      = .next { State.reset with sp := 16, latch := some ⟨.stackOverflow, 0x200, 0x2200⟩ } := ⟨rfl, rfl⟩

/-- A free schedule, and a dead end. -/
theorem witness_OnlyLatchedMachineStops :
    State.reset.agenda = [] ∧ State.reset.schedule = .free 0 ∧
    AtDeadEnd { at200 0 with latch := some ⟨.decode, 0x200, 0⟩ } := ⟨rfl, rfl, rfl, rfl, by decide⟩

/-- A Stopped core's turn, and a latched machine's tick; neither is at a dead end. -/
theorem witness_DisabledAgentsDoNothing :
    turnNow { State.reset with agenda := [.core] } = .core ∧ ¬ AtDeadEnd { State.reset with agenda := [.core] } ∧
    turnNow { at200 0 with latch := some ⟨.decode, 0x200, 0⟩, agenda := [.tick] } = .tick ∧
    ¬ AtDeadEnd { at200 0 with latch := some ⟨.decode, 0x200, 0⟩, agenda := [.tick] } ∧
    ({ State.reset with agenda := [.core] } : State).run = .stopped ∧
    ({ at200 0 with latch := some ⟨.decode, 0x200, 0⟩, agenda := [.tick] } : State).latch ≠ none := by
  unfold AtDeadEnd
  decide +kernel

theorem witness_OnlyLoadClearsLatch :
    HostCalls { at200 0 with latch := some ⟨.decode, 0x200, 0⟩, agenda := [.host (.load [])] } (.load []) ∧
    seen State.latch (step { at200 0 with latch := some ⟨.decode, 0x200, 0⟩, agenda := [.host (.load [])] })
      = some none := ⟨⟨rfl, rfl⟩, by decide +kernel⟩

/-- LD B,V0 changes a byte. -/
theorem witness_MemoryWriters : CoreRuns (at200 0xF033) (.ldB 0) ∧ readMem (at200 0xF033) 0 = 0xF0 ∧
    seen (readMem · 0) (step (at200 0xF033)) = some 0 :=
  ⟨⟨rfl, rfl, rfl, by decide +kernel⟩, by decide +kernel, by decide +kernel⟩

/-- DRW V0,V0,1 with I = 0 changes a cell. -/
theorem witness_DisplayWriters : CoreRuns (at200 0xD001) (.drw 0 0 1) ∧
    seen (fun t => Display.cell t.display 0 0) (step (at200 0xD001)) = some true :=
  ⟨⟨rfl, rfl, rfl, by decide +kernel⟩, by decide +kernel⟩

theorem witness_HostOwnsKeysAndRunState :
    seen State.run (step { State.reset with agenda := [.host .start] }) = some .running ∧
    seen (fun t => t.keys[15]) (step { State.reset with agenda := [.host (.setKey 15 true)] }) = some true := by
  decide +kernel

/-- LD DT,V0 and LD ST,V0 change a timer. -/
theorem witness_TimerWriters : seen State.dt (step (writeV (at200 0xF015) 0 7)) = some 7 ∧
    seen State.st (step (writeV (at200 0xF018) 0 7)) = some 7 := by decide +kernel

theorem witness_NoInstructionReadsSoundTimer :
    exec (.ldVxDT 0) State.reset = .next { State.reset with pc := 0x202 } ∧
    exec (.ldSTVx 0) State.reset = .next { State.reset with pc := 0x202 } := ⟨rfl, rfl⟩

theorem witness_OnlyKeyInstructionsReadKeys : ∀ x : Nibble,
    (Instr.ldVxDT 0 ≠ .skp x ∧ Instr.ldVxDT 0 ≠ .sknp x ∧ Instr.ldVxDT 0 ≠ .ldVxK x) := by decide

/-- SP = 1: entry 1 may differ, entry 0 may not. -/
theorem witness_DeadStackEntriesUnobservable :
    SameButDeadStack { push State.reset 0x204 with run := .running }
      { push State.reset 0x204 with run := .running, stack := (push State.reset 0x204).stack.set 1 0xFFFF } :=
  ⟨rfl, by decide +kernel⟩

theorem witness_HighIndexBitsUnobservable : SameButHighIndex { State.reset with i := 0xF123 }
    { State.reset with i := 0x0123 } := ⟨rfl, by decide⟩

/-- A latched machine whose core moves alone. -/
def stopped : State :=
  { State.reset with latch := some ⟨.decode, 0x200, 0⟩, schedule := .coreAlone }

/-- Pairs that stop in a fault, for the second clause of the two statements above. -/
theorem witness_Unobservable_fault :
    SameButDeadStack stopped { stopped with stack := stopped.stack.set 0 0xFFFF } ∧
    SameButHighIndex { stopped with i := 0x1000 } stopped ∧ step stopped = .fault (.decode 0x200 0) :=
  ⟨⟨rfl, fun k _ h => absurd h (Nat.not_lt_zero k)⟩, ⟨rfl, by decide⟩, rfl⟩

theorem witness_SelfJumpIsTheEnd : CoreNext (at200 0x1200) ∧ (at200 0x1200).run = .running ∧
    (at200 0x1200).latch = none ∧ AtSelfJump (at200 0x1200) :=
  ⟨rfl, rfl, rfl, 0x200, by decide +kernel, rfl⟩

theorem witness_LoadResetsAndCopiesImage :
    HostCalls { at200 0x652A with agenda := [.host (.load [0x12])] } (.load [0x12]) ∧ 0x200 + 3583 < 0x1000 :=
  ⟨⟨rfl, rfl⟩, by decide⟩

theorem witness_LifecycleCalls :
    HostCalls { State.reset with agenda := [.host .start] } .start ∧
    HostCalls { State.reset with latch := some ⟨.decode, 0x200, 0⟩, agenda := [.host .start] } .start ∧
    HostCalls { at200 0 with agenda := [.host .stop] } .stop ∧
    HostCalls { at200 0 with agenda := [.host .dispose] } .dispose ∧
    HostCalls { at200 0 with agenda := [.host (.setKey 0 true)] } (.setKey 0 true) ∧
    HostCalls { at200 0 with agenda := [.host (.setKey 15 false)] } (.setKey 15 false) ∧
    ({ State.reset with disposed := true, agenda := [.host .start] } : State).disposed = true :=
  ⟨⟨rfl, rfl⟩, ⟨rfl, rfl⟩, ⟨rfl, rfl⟩, ⟨rfl, rfl⟩, ⟨rfl, rfl⟩, ⟨rfl, rfl⟩, rfl⟩

end Sys2Proof.Tests
end

section
/-! PROOFS. The statements on the state (spec 10_state.md): who writes which part of it, what every step
keeps, and which parts no instruction reads. -/

namespace Sys2Proof.Proofs

open Sys2Proof.Machine Sys2Proof.Safety Sys2Proof.Laws

/-! ### The decoder -/

theorem wordNNN_eq {w : Word} {op : Nibble} (ho : opField w = op) : wordNNN op (nnnField w) = w :=
  ho ▸ wordNNN_fields w

theorem wordXKK_eq {w : Word} {op : Nibble} {kk : Byte} (ho : opField w = op) (hk : kkField w = kk) :
    wordXKK op (xField w) kk = w := ho ▸ hk ▸ wordXKK_fields w

theorem wordXYN_eq {w : Word} {op n : Nibble} (ho : opField w = op) (hn : nField w = n) :
    wordXYN op (xField w) (yField w) n = w := ho ▸ hn ▸ wordXYN_fields w

theorem encode_of_decode0 {w : Word} {i : Instr} (h : decode0 w = .ok i) : encode i = w := by
  unfold decode0 at h
  split_ifs at h with h1 h2
  · cases h; exact h1.symm
  · cases h; exact h2.symm

theorem eq_of_decode59 {strict : Bool} {w : Word} {i j : Instr} (h : decode59 strict w j = .ok i) :
    j = i := by
  unfold decode59 at h
  split_ifs at h
  cases h
  rfl

theorem encode_of_decode8 {w : Word} {i : Instr} (ho : opField w = 0x8) (h : decode8 w = .ok i) :
    encode i = w := by
  unfold decode8 at h
  split at h
  case h_10 => cases h
  all_goals
    cases h
    exact wordXYN_eq ho ‹_›

theorem encode_of_decodeE {w : Word} {i : Instr} (ho : opField w = 0xE) (h : decodeE w = .ok i) :
    encode i = w := by
  unfold decodeE at h
  split at h
  case h_3 => cases h
  all_goals
    cases h
    exact wordXKK_eq ho ‹_›

theorem encode_of_decodeF {w : Word} {i : Instr} (ho : opField w = 0xF) (h : decodeF w = .ok i) :
    encode i = w := by
  unfold decodeF at h
  split at h
  case h_10 => cases h
  all_goals
    cases h
    exact wordXKK_eq ho ‹_›

/-- A word that decodes is the word of its instruction: no bit of it is lost (R75, R76). -/
theorem encode_of_decodeWord {strict : Bool} {w : Word} {i : Instr} (h : decodeWord strict w = .ok i) :
    encode i = w := by
  unfold decodeWord at h
  split at h
  case h_1 => exact encode_of_decode0 h
  case h_2 ho | h_3 ho | h_11 ho | h_12 ho => cases h; exact wordNNN_eq ho
  case h_4 ho | h_5 ho | h_7 ho | h_8 ho | h_13 ho => cases h; exact wordXKK_eq ho rfl
  case h_6 ho | h_10 ho => cases eq_of_decode59 h; exact wordXYN_eq ho rfl
  case h_9 ho => exact encode_of_decode8 ho h
  case h_14 ho => cases h; exact wordXYN_eq ho rfl
  case h_15 ho => exact encode_of_decodeE ho h
  case h_16 ho => exact encode_of_decodeF ho h
  case h_17 => cases h

/-- The words with top nibble 0 are those below 0x1000 (R72). -/
theorem toNat_lt_of_opField_zero {w : Word} (ho : opField w = 0x0) : w.toNat < 0x1000 := by
  have h := congrArg BitVec.toNat ho
  rw [opField, toNat_field] at h
  have h0 : w.toNat / 4096 % 16 = 0 := h
  omega

theorem lowNibble_of_decode59 {strict : Bool} {w : Word} {e : DecodeError} {j : Instr}
    (h : decode59 strict w j = .error e) : strict = true ∧ nField w ≠ 0 := by
  unfold decode59 at h
  split_ifs at h with hl
  simpa [lowNibbleOk] using hl

/-- The low nibbles that top nibble 8 leaves without a meaning (R77). -/
theorem nField_of_decode8 {w : Word} {e : DecodeError} (h : decode8 w = .error e) :
    nField w ∈ [0x8, 0x9, 0xA, 0xB, 0xC, 0xD, 0xF] := by
  have unmatched : ∀ n : Nibble, n ∉ [0x0, 0x1, 0x2, 0x3, 0x4, 0x5, 0x6, 0x7, 0xE] →
      n ∈ [0x8, 0x9, 0xA, 0xB, 0xC, 0xD, 0xF] := by decide
  unfold decode8 at h
  split at h
  case h_10 => exact unmatched _ (by simp_all)
  all_goals cases h

theorem kkField_of_decodeE {w : Word} {e : DecodeError} (h : decodeE w = .error e) :
    kkField w ∉ [0x9E, 0xA1] := by
  unfold decodeE at h
  split at h
  case h_3 => simp_all
  all_goals cases h

theorem kkField_of_decodeF {w : Word} {e : DecodeError} (h : decodeF w = .error e) :
    kkField w ∉ [0x07, 0x0A, 0x15, 0x18, 0x1E, 0x29, 0x33, 0x55, 0x65] := by
  unfold decodeF at h
  split at h
  case h_10 => simp_all
  all_goals cases h

/-- A word that does not decode is Unknown (R76, R77, R80). -/
theorem unknown_of_decodeWord {strict : Bool} {w : Word} {e : DecodeError}
    (h : decodeWord strict w = .error e) : Unknown strict w := by
  unfold decodeWord at h
  split at h
  case h_1 ho =>
    refine .inl ⟨toNat_lt_of_opField_zero ho, ?_⟩
    unfold decode0 at h
    split_ifs at h with h1 h2
    exact ⟨h1, h2⟩
  case h_6 ho =>
    obtain ⟨hs, hn⟩ := lowNibble_of_decode59 h
    exact .inr (.inr (.inr (.inr ⟨hs, .inl ho, hn⟩)))
  case h_10 ho =>
    obtain ⟨hs, hn⟩ := lowNibble_of_decode59 h
    exact .inr (.inr (.inr (.inr ⟨hs, .inr ho, hn⟩)))
  case h_9 ho => exact .inr (.inl ⟨ho, nField_of_decode8 h⟩)
  case h_15 ho => exact .inr (.inr (.inl ⟨ho, kkField_of_decodeE h⟩))
  case h_16 ho => exact .inr (.inr (.inr (.inl ⟨ho, kkField_of_decodeF h⟩)))
  case h_17 =>
    have every : ∀ n : Nibble, n ∈ [0x0, 0x1, 0x2, 0x3, 0x4, 0x5, 0x6, 0x7, 0x8, 0x9, 0xA, 0xB, 0xC, 0xD,
      0xE, 0xF] := by decide
    have := every (opField w)
    simp_all
  all_goals cases h

/-! ### What an instruction writes -/

theorem execRet_empty {s : State} (h : s.sp.val = 0) :
    execRet s = .next { s with latch := some ⟨.stackUnderflow, s.pc, encode .ret⟩ } := by
  rw [execRet, (stackEmpty_iff s).2 h]
  rfl

theorem execRet_pop {s : State} (h : 0 < s.sp.val) :
    execRet s = .next (advance (jump (pop s) (topEntry s + 2))) := by
  rw [execRet, if_neg (mt (stackEmpty_iff s).1 h.ne')]
  rfl

theorem execCall_full {nnn : Addr} {s : State} (h : s.sp.val = 16) :
    execCall nnn s = .next { s with latch := some ⟨.stackOverflow, s.pc, encode (.call nnn)⟩ } := by
  rw [execCall, (stackFull_iff s).2 h]
  rfl

theorem execCall_push {nnn : Addr} {s : State} (h : s.sp.val < 16) :
    execCall nnn s = .next (advance (jump (push s s.pc) (zextAddr nnn))) := by
  rw [execCall, if_neg (mt (stackFull_iff s).1 h.ne)]
  rfl

/-- RET takes its fault on an empty stack; else it jumps two past the popped entry (R101). -/
theorem execRet_cases {s t : State} (h : execRet s = .next t) :
    (s.sp.val = 0 ∧ t = { s with latch := some ⟨.stackUnderflow, s.pc, encode .ret⟩ }) ∨
    (0 < s.sp.val ∧ t = advance (jump (pop s) (topEntry s + 2))) := by
  rcases Nat.eq_zero_or_pos s.sp.val with hsp | hsp
  · cases (execRet_empty hsp).symm.trans h
    exact .inl ⟨hsp, rfl⟩
  · cases (execRet_pop hsp).symm.trans h
    exact .inr ⟨hsp, rfl⟩

/-- CALL takes its fault on a full stack; else it pushes its own address and jumps (R102). -/
theorem execCall_cases {nnn : Addr} {s t : State} (h : execCall nnn s = .next t) :
    (s.sp.val = 16 ∧ t = { s with latch := some ⟨.stackOverflow, s.pc, encode (.call nnn)⟩ }) ∨
    (s.sp.val < 16 ∧ t = advance (jump (push s s.pc) (zextAddr nnn))) := by
  rcases (Nat.le_of_lt_succ s.sp.isLt).eq_or_lt with hsp | hsp
  · cases (execCall_full hsp).symm.trans h
    exact .inl ⟨hsp, rfl⟩
  · cases (execCall_push hsp).symm.trans h
    exact .inr ⟨hsp, rfl⟩

/-- LD Vx,K holds, or writes Vx, with a draw used up in stub mode (R225, R226, R227). -/
theorem execLdVxK_cases {x : Nibble} {s t : State} (h : execLdVxK x s = .next t) :
    t = s ∨ (∃ k, t = advance (writeV s x k)) ∨ t = advance (countDraw (writeV s x (drawnByte s))) := by
  unfold execLdVxK keyWaitBlock at h
  split at h
  · split at h <;> cases h
    · exact .inl rfl
    · exact .inr (.inl ⟨_, rfl⟩)
  · cases h
    exact .inr (.inr rfl)

/-- What `exec i` may change between `s` and `t`: each part has its own writers, and the keys, the run state,
`disposed` and the parameters have none. -/
structure ExecFrame (i : Instr) (s t : State) : Prop where
  keys : t.keys = s.keys
  run : t.run = s.run
  disposed : t.disposed = s.disposed
  config : t.config = s.config
  stack : (t.sp = s.sp ∧ t.stack = s.stack) ∨ i = .ret ∨ ∃ nnn, i = .call nnn
  dt : t.dt = s.dt ∨ ∃ x, i = .ldDTVx x
  st : t.st = s.st ∨ ∃ x, i = .ldSTVx x
  display : t.display = s.display ∨ i = .cls ∨ ∃ x y n, i = .drw x y n
  mem : t.mem = s.mem ∨
    ((∃ x, i = .ldB x) ∨ ∃ x, i = .ldStore x) ∧ ∃ a bs, t.mem = Memory.writeBytes s.mem a bs
  latch : t.latch = s.latch ∨
    (i = .ret ∧ s.sp.val = 0 ∧ t = { s with latch := some ⟨.stackUnderflow, s.pc, encode i⟩ }) ∨
    (∃ nnn, i = .call nnn) ∧ s.sp.val = 16 ∧ t = { s with latch := some ⟨.stackOverflow, s.pc, encode i⟩ }

/-- No instruction reaches past its frame (R28, R29, R30, R37, R54, R256). -/
theorem exec_frame {i : Instr} {s t : State} (h : exec i s = .next t) : ExecFrame i s t := by
  cases i
  case ret =>
    rcases execRet_cases h with ⟨hsp, rfl⟩ | ⟨-, rfl⟩ <;> constructor <;> simp [*]
  case call =>
    rcases execCall_cases h with ⟨hsp, rfl⟩ | ⟨-, rfl⟩ <;> constructor <;> simp [*]
  case ldVxK =>
    rcases execLdVxK_cases h with rfl | ⟨k, rfl⟩ | rfl <;> constructor <;> simp
  case addReg | sub | shr | subn | shl =>
    cases h
    rw [aluFlag_eq_setV]
    constructor <;> simp
  case ldB | ldStore =>
    cases h
    constructor
    case mem => exact .inr ⟨by simp, _, _, rfl⟩
    all_goals simp [storeAtI]
  case drw =>
    cases h
    constructor <;> simp [writeFlag_eq]
  all_goals
    cases h
    constructor <;> simp

/-- Every instruction answers a next state in every state. -/
theorem exec_next (i : Instr) (s : State) : ∃ t, exec i s = .next t := by
  cases i
  case ret =>
    rcases Nat.eq_zero_or_pos s.sp.val with hsp | hsp
    · exact ⟨_, execRet_empty hsp⟩
    · exact ⟨_, execRet_pop hsp⟩
  case call =>
    rcases (Nat.le_of_lt_succ s.sp.isLt).eq_or_lt with hsp | hsp
    · exact ⟨_, execCall_full hsp⟩
    · exact ⟨_, execCall_push hsp⟩
  case ldVxK =>
    simp only [exec, execLdVxK, keyWaitBlock]
    split
    · split <;> exact ⟨_, rfl⟩
    · exact ⟨_, rfl⟩
  all_goals exact ⟨_, rfl⟩

/-! ### What a host call and a step write -/

theorem startMachine_keys (s : State) : (startMachine s).keys = s.keys := by
  unfold startMachine
  split <;> rfl

theorem startMachine_config (s : State) : (startMachine s).config = s.config := by
  unfold startMachine
  split <;> rfl

theorem startMachine_disposed (s : State) : (startMachine s).disposed = s.disposed := by
  unfold startMachine
  split <;> rfl

/-- A call that is no load changes the keys, the run state and `disposed` at most. -/
theorem takeCall_eq_or_load (c : HostCall) (s : State) :
    takeCall c s = { s with
      keys := (takeCall c s).keys, run := (takeCall c s).run, disposed := (takeCall c s).disposed } ∨
    ∃ image, c = .load image := by
  cases c with
  | load image => exact .inr ⟨image, rfl⟩
  | start =>
    simp only [takeCall, startMachine]
    split <;> exact .inl rfl
  | _ => exact .inl rfl

/-- Only setKey changes the keys (R30). -/
theorem takeCall_keys (c : HostCall) (s : State) :
    (takeCall c s).keys = s.keys ∨ ∃ k p, c = .setKey k p := by
  cases c with
  | setKey k p => exact .inr ⟨k, p, rfl⟩
  | start => exact .inl (startMachine_keys s)
  | _ => exact .inl rfl

/-- No call changes the parameters (R8). -/
theorem takeCall_config (c : HostCall) (s : State) : (takeCall c s).config = s.config := by
  cases c with
  | start => exact startMachine_config s
  | _ => rfl

/-- Only start, stop, dispose and load change the run state (R37). -/
theorem takeCall_run (c : HostCall) (s : State) :
    (takeCall c s).run = s.run ∨ c = .start ∨ c = .stop ∨ c = .dispose ∨ ∃ image, c = .load image := by
  cases c with
  | setKey k p => exact .inl rfl
  | _ => simp

/-- Only a call that also stops the machine disposes of it (R297). -/
theorem takeCall_disposed (c : HostCall) (s : State) :
    (takeCall c s).disposed = s.disposed ∨ (takeCall c s).run = .stopped := by
  cases c with
  | dispose => exact .inr rfl
  | start => exact .inl (startMachine_disposed s)
  | _ => exact .inl rfl

theorem timerStep_disabled {s : State} (h : enabled s = false) : timerStep s = .next s := by
  simp [timerStep, h]

theorem timerStep_enabled {s : State} (h : enabled s = true) : timerStep s = .next (tick s) := by
  simp [timerStep, h]

/-- Everything a step that answers a next state can be, from the state whose turn is used up: nothing more,
the instruction at pc, the decode fault, a tick, or a call that CORE takes (R270). -/
theorem step_inversion {s t : State} (h : step s = .next t) :
    t = turnTaken s ∨
    (∃ i, CoreRuns s i ∧ exec i (turnTaken s) = .next t) ∨
    (s.latch = none ∧ Unknown s.config.strict59 (fetchWord s) ∧
      t = { turnTaken s with latch := some ⟨.decode, s.pc, fetchWord s⟩ }) ∨
    (TimerTicks s ∧ t = tick (turnTaken s)) ∨
    (∃ c, HostCalls s c ∧ t = takeCall c (turnTaken s)) := by
  rcases step_cases h with ⟨turn, hc⟩ | ⟨turn, ht⟩ | ⟨c, turn, rfl⟩
  · rcases coreStep_cases hc with ⟨-, rfl⟩ | ⟨en, i, hd, hx⟩ | ⟨en, ⟨e, he⟩, rfl⟩
    · exact .inl rfl
    · obtain ⟨hrun, hlatch⟩ := (enabled_iff s).1 (enabled_turnTaken s ▸ en)
      simp only [turnTaken_config, fetchWord_turnTaken] at hd
      exact .inr (.inl ⟨i, ⟨turn, hrun, hlatch, hd⟩, hx⟩)
    · obtain ⟨-, hlatch⟩ := (enabled_iff s).1 (enabled_turnTaken s ▸ en)
      simp only [turnTaken_config, fetchWord_turnTaken] at he
      exact .inr (.inr (.inl ⟨hlatch, unknown_of_decodeWord he, by simp⟩))
  · rcases timerStep_cases ht with ⟨-, rfl⟩ | ⟨en, rfl⟩
    · exact .inl rfl
    · obtain ⟨hrun, hlatch⟩ := (enabled_iff s).1 (enabled_turnTaken s ▸ en)
      exact .inr (.inr (.inr (.inl ⟨⟨hrun, hlatch, turn⟩, rfl⟩)))
  · unfold hostCall
    split
    · exact .inl rfl
    · rename_i hd
      exact .inr (.inr (.inr (.inr ⟨c, ⟨by simpa using hd, turn⟩, rfl⟩)))

/-! ### The invariant -/

/-- Whether a latched fault explains itself depends on the latch, the fetched word's place, SP and the
parameters alone (R251). -/
theorem latchExplained_congr {s t : State} (h : LatchExplained s) (hl : t.latch = s.latch)
    (hpc : t.pc = s.pc) (hmem : t.mem = s.mem) (hsp : t.sp = s.sp) (hcfg : t.config = s.config) :
    LatchExplained t := by
  intro r hr
  rw [hpc, fetchWord_congr hmem hpc, hsp, hcfg]
  exact h r (hl ▸ hr)

theorem latchExplained_of_none {s : State} (h : s.latch = none) : LatchExplained s := by
  intro r hr
  rw [h] at hr
  cases hr

/-- Using up a turn keeps the invariant. -/
theorem inv_turnTaken {s : State} (h : Inv s) : Inv (turnTaken s) where
  memory := by simpa using h.memory
  disposed := by simpa using h.disposed
  config := by simpa using h.config
  latch := latchExplained_congr h.latch (by simp) (by simp) (by simp) (by simp) (by simp)

/-- The instruction at pc leaves a latch that explains itself: a fault it takes is that of its own word and
its condition still holds, since nothing else was written (R256). -/
theorem latchExplained_exec {i : Instr} {s t : State} (hl : s.latch = none)
    (hd : decodeWord s.config.strict59 (fetchWord s) = .ok i) (h : exec i s = .next t) :
    LatchExplained t := by
  have word : encode i = fetchWord s := encode_of_decodeWord hd
  rcases (exec_frame h).latch with kept | ⟨rfl, hsp, rfl⟩ | ⟨⟨nnn, rfl⟩, hsp, rfl⟩
  · exact latchExplained_of_none (kept.trans hl)
  · rintro r ⟨⟩
    exact ⟨rfl, word, hsp, rfl⟩
  · rintro r ⟨⟩
    exact ⟨rfl, word, hsp, opField_wordNNN 0x2 nnn⟩

/-- The instruction at pc keeps the invariant. -/
theorem inv_exec {i : Instr} {s t : State} (hi : Inv s) (hl : s.latch = none)
    (hd : decodeWord s.config.strict59 (fetchWord s) = .ok i) (h : exec i s = .next t) : Inv t where
  memory := by
    rcases (exec_frame h).mem with kept | ⟨-, a, bs, stored⟩
    · exact kept ▸ hi.memory
    · exact stored ▸ wf_writeBytes hi.memory a bs
  disposed := by
    rw [(exec_frame h).disposed, (exec_frame h).run]
    exact hi.disposed
  config := (exec_frame h).config ▸ hi.config
  latch := latchExplained_exec hl hd h

/-- A call that CORE takes keeps the invariant. -/
theorem inv_takeCall {s : State} (c : HostCall) (hi : Inv s) (hd : s.disposed = false) :
    Inv (takeCall c s) where
  memory := by
    rcases takeCall_eq_or_load c s with kept | ⟨image, rfl⟩
    · exact kept ▸ hi.memory
    · exact wf_writeBytes wf_reset programBase _
  disposed := by
    intro h
    rcases takeCall_disposed c s with kept | stopped
    · rw [kept, hd] at h
      cases h
    · exact stopped
  config := takeCall_config c s ▸ hi.config
  latch := by
    rcases takeCall_eq_or_load c s with kept | ⟨image, rfl⟩
    · rw [kept]
      exact latchExplained_congr hi.latch rfl rfl rfl rfl rfl
    · exact latchExplained_of_none rfl

/-- Settles O39, by what a step can be: using up the turn keeps the invariant, and so does each agent's
step from there; a fault taken now is explained by the word just fetched. -/
theorem everyStepKeepsInv : Obligations.EveryStepKeepsInv := by
  unfold Obligations.EveryStepKeepsInv
  intro s t inv h
  have inv' : Inv (turnTaken s) := inv_turnTaken inv
  rcases step_inversion h with rfl | ⟨i, ⟨-, -, hl, hd⟩, hx⟩ | ⟨-, hu, rfl⟩ | ⟨⟨-, hl, -⟩, rfl⟩ |
    ⟨c, ⟨hd, -⟩, rfl⟩
  · exact inv'
  · exact inv_exec inv' (by simpa using hl) (by simpa using hd) hx
  · refine ⟨inv'.memory, inv'.disposed, inv'.config, ?_⟩
    rintro r ⟨⟩
    exact ⟨by simp, (fetchWord_turnTaken s).symm, by simpa using hu⟩
  · exact ⟨inv'.memory, inv'.disposed, inv'.config, latchExplained_of_none (by simpa [tick_eq] using hl)⟩
  · exact inv_takeCall c inv' (by simpa using hd)

/-! ### Parts no instruction reads -/

/-- The state with ST, the keys and the stack's entries replaced, each by a function of its old value; the
identity leaves a part as it is. -/
def patched (st : Byte → Byte) (keys : Vector Bool 16 → Vector Bool 16)
    (stack : Vector Word 16 → Vector Word 16) (s : State) : State :=
  { s with st := st s.st, keys := keys s.keys, stack := stack s.stack }

section
variable (st : Byte → Byte) (keys : Vector Bool 16 → Vector Bool 16)
  (stack : Vector Word 16 → Vector Word 16) (s : State)

theorem skipIf_patched (c : Bool) : skipIf c (patched st keys stack s) = patched st keys stack (skipIf c s) := by
  cases c <;> rfl

theorem aluFlag_patched (op : Byte → Byte → AluOut) (x y : Nibble) :
    aluFlag op x y (patched st keys stack s) = patched st keys stack (aluFlag op x y s) := by
  have config : (patched st keys stack s).config = s.config := rfl
  simp only [aluFlag, config]
  cases s.config.vfOrder <;> rfl

theorem push_patched (w : Word) : push (patched st keys id s) w = patched st keys id (push s w) := by
  by_cases h : s.sp.val < 16
  · rw [push_of_lt h]
    exact push_of_lt (s := patched st keys id s) h
  · simp [push, h, patched]

theorem execLdVxK_patched {x : Nibble} {t : State} (h : execLdVxK x s = .next t) :
    execLdVxK x (patched st id stack s) = .next (patched st id stack t) := by
  have config : (patched st id stack s).config = s.config := rfl
  have pressed : pressedKey (patched st id stack s) = pressedKey s := rfl
  simp only [execLdVxK, keyWaitBlock, config, pressed] at h ⊢
  revert h
  cases s.config.keyWait with
  | stub =>
    rintro ⟨⟩
    rfl
  | block => cases pressedKey s <;> rintro ⟨⟩ <;> rfl

end

/-- ST is read by no instruction and written by LD ST,Vx alone; the keys are read by SKP, SKNP and LD Vx,K
alone and written by none; a stack entry is read by RET and written by CALL alone: an instruction runs alike
from a state in which parts it does not touch are replaced (R27, R29, R30). -/
theorem exec_patched {st : Byte → Byte} {keys : Vector Bool 16 → Vector Bool 16}
    {stack : Vector Word 16 → Vector Word 16} {i : Instr} {s t : State}
    (hst : st = id ∨ ∀ x, i ≠ .ldSTVx x)
    (hkeys : keys = id ∨ ∀ x, i ≠ .skp x ∧ i ≠ .sknp x ∧ i ≠ .ldVxK x)
    (hstack : stack = id ∨ i ≠ .ret ∧ ∀ nnn, i ≠ .call nnn) (h : exec i s = .next t) :
    exec i (patched st keys stack s) = .next (patched st keys stack t) := by
  cases i
  case ret =>
    obtain rfl := hstack.resolve_right (by simp)
    rcases execRet_cases h with ⟨hsp, rfl⟩ | ⟨hsp, rfl⟩
    · exact execRet_empty hsp
    · exact execRet_pop hsp
  case call =>
    obtain rfl := hstack.resolve_right (by simp)
    rcases execCall_cases h with ⟨hsp, rfl⟩ | ⟨hsp, rfl⟩
    · exact execCall_full hsp
    · refine (execCall_push (s := patched st keys id s) hsp).trans ?_
      rw [push_patched]
      rfl
  case skp | sknp =>
    obtain rfl := hkeys.resolve_right (by simp)
    cases h
    exact congrArg complete (skipIf_patched ..)
  case ldVxK =>
    obtain rfl := hkeys.resolve_right (by simp)
    exact execLdVxK_patched st stack _ h
  case ldSTVx =>
    obtain rfl := hst.resolve_right (by simp)
    cases h
    rfl
  case seImm | sneImm | seReg | sneReg =>
    cases h
    exact congrArg complete (skipIf_patched ..)
  case addReg | sub | shr | subn | shl =>
    cases h
    exact congrArg complete (aluFlag_patched ..)
  all_goals
    cases h
    rfl

/-- Settles O49: a patch of ST alone, and LD ST,Vx overwrites it. -/
theorem noInstructionReadsSoundTimer : Obligations.NoInstructionReadsSoundTimer := by
  unfold Obligations.NoInstructionReadsSoundTimer
  intro i s t b h
  refine ⟨fun hi => ?_, ?_⟩
  · exact exec_patched (st := fun _ => b) (keys := id) (stack := id) (.inr hi) (.inl rfl) (.inl rfl) h
  · rintro x rfl
    exact h

/-- Settles O50: a patch of the keys alone. -/
theorem onlyKeyInstructionsReadKeys : Obligations.OnlyKeyInstructionsReadKeys := by
  unfold Obligations.OnlyKeyInstructionsReadKeys
  intro i s t keys hi h
  exact exec_patched (st := id) (keys := fun _ => keys) (stack := id) (.inl rfl) (.inr hi) (.inl rfl) h

/-! ### Dead stack entries (R27) -/

/-- `stack` agrees with the stack of `s` on the entries in use. -/
def LiveEntriesAgree (s : State) (stack : Vector Word 16) : Prop :=
  ∀ k, ∀ h : k < 16, k < s.sp.val → stack[k] = s.stack[k]

/-- The state with its stack entries replaced. -/
def withStack (stack : Vector Word 16) (s : State) : State := patched id id (fun _ => stack) s

theorem sameButDeadStack_iff {s t : State} :
    SameButDeadStack s t ↔ ∃ stack, LiveEntriesAgree s stack ∧ t = withStack stack s := by
  constructor
  · rintro ⟨ht, live⟩
    exact ⟨t.stack, live, ht⟩
  · rintro ⟨stack, live, rfl⟩
    exact ⟨rfl, live⟩

theorem sameButDeadStack_of_live {s : State} {stack : Vector Word 16} (h : LiveEntriesAgree s stack) :
    SameButDeadStack s (withStack stack s) := ⟨rfl, h⟩

/-- A push writes the entry that comes into use, so the entries in use still agree (R102). -/
theorem LiveEntriesAgree.push {s : State} {stack : Vector Word 16} (live : LiveEntriesAgree s stack)
    (h : s.sp.val < 16) (w : Word) : LiveEntriesAgree (push s w) (stack.set s.sp.val w h) := by
  intro k hk hlt
  simp only [push_of_lt h, Vector.getElem_set] at hlt ⊢
  split
  · rfl
  · exact live k hk (by omega)

/-- The entry RET pops is in use (R101). -/
theorem topEntry_of_live {s : State} {stack : Vector Word 16} (live : LiveEntriesAgree s stack)
    (h : 0 < s.sp.val) : topEntry (withStack stack s) = topEntry s := by
  have popped := live (s.sp.val - 1) (by omega) (by omega)
  exact (topEntry_eq (s := withStack stack s) h).trans (popped.trans (topEntry_eq h).symm)

/-- An instruction runs alike from stacks that agree on the entries in use: RET reads such an entry, CALL
makes one, and no other instruction touches the stack. -/
theorem exec_of_live {i : Instr} {s s' : State} {stack : Vector Word 16} (live : LiveEntriesAgree s stack)
    (h : exec i s = .next s') :
    ∃ t', exec i (withStack stack s) = .next t' ∧ SameButDeadStack s' t' := by
  by_cases untouched : i ≠ .ret ∧ ∀ nnn, i ≠ .call nnn
  · have run := exec_patched (st := id) (keys := id) (stack := fun _ => stack) (.inl rfl) (.inl rfl)
      (.inr untouched) h
    obtain ⟨hret, hcall⟩ := untouched
    obtain ⟨hsp, hstack⟩ := (exec_frame h).stack.resolve_right (by simp [hret, hcall])
    refine ⟨_, run, sameButDeadStack_of_live ?_⟩
    simpa [LiveEntriesAgree, hsp, hstack] using live
  · cases i
    case ret =>
      rcases execRet_cases h with ⟨hsp, rfl⟩ | ⟨hsp, rfl⟩
      · exact ⟨_, execRet_empty hsp, sameButDeadStack_of_live live⟩
      · refine ⟨_, execRet_pop (s := withStack stack s) hsp, ?_⟩
        rw [topEntry_of_live live hsp]
        exact sameButDeadStack_of_live fun k hk hlt => live k hk (Nat.lt_of_lt_of_le hlt (Nat.sub_le ..))
    case call nnn =>
      rcases execCall_cases h with ⟨hsp, rfl⟩ | ⟨hsp, rfl⟩
      · exact ⟨_, execCall_full hsp, sameButDeadStack_of_live live⟩
      · refine ⟨_, execCall_push (s := withStack stack s) hsp, ?_⟩
        have agree := live.push hsp s.pc
        rw [push_of_lt (s := withStack stack s) hsp]
        rw [push_of_lt hsp] at agree ⊢
        exact sameButDeadStack_of_live agree
    all_goals simp at untouched

/-- A call acts alike on stacks that agree on the entries in use: a load resets the stack, the others leave
it. -/
theorem hostCall_of_live (c : HostCall) {s : State} {stack : Vector Word 16}
    (live : LiveEntriesAgree s stack) :
    SameButDeadStack (hostCall c s) (hostCall c (withStack stack s)) := by
  have disposed : (withStack stack s).disposed = s.disposed := rfl
  simp only [hostCall, disposed]
  split
  · exact sameButDeadStack_of_live live
  · cases c with
    | load image => exact ⟨rfl, fun _ _ _ => rfl⟩
    | start =>
      have latch : (withStack stack s).latch = s.latch := rfl
      simp only [takeCall, startMachine, latch]
      split <;> exact sameButDeadStack_of_live live
    | _ => exact sameButDeadStack_of_live live

/-- Each agent moves alike from stacks that agree on the entries in use. -/
theorem performEvent_of_live {e : AgentEvent} {s s' : State} {stack : Vector Word 16}
    (live : LiveEntriesAgree s stack) (h : performEvent e s = .next s') :
    ∃ t', performEvent e (withStack stack s) = .next t' ∧ SameButDeadStack s' t' := by
  have same := sameButDeadStack_of_live live
  cases e with
  | core =>
    rcases coreStep_cases h with ⟨off, rfl⟩ | ⟨on, i, hd, hx⟩ | ⟨on, ⟨e, he⟩, rfl⟩
    · exact ⟨_, coreStep_disabled (s := withStack stack s') off, same⟩
    · obtain ⟨t', hx', same'⟩ := exec_of_live live hx
      have run := (coreStep_enabled (s := withStack stack s) on).trans (runInstruction_ok hd)
      exact ⟨t', run.trans hx', same'⟩
    · have run := (coreStep_enabled (s := withStack stack s) on).trans (runInstruction_error he)
      exact ⟨_, run, sameButDeadStack_of_live live⟩
  | tick =>
    rcases timerStep_cases h with ⟨off, rfl⟩ | ⟨on, rfl⟩
    · exact ⟨_, timerStep_disabled (s := withStack stack s') off, same⟩
    · exact ⟨_, timerStep_enabled (s := withStack stack s) on, sameButDeadStack_of_live live⟩
  | host c =>
    cases h
    exact ⟨_, rfl, hostCall_of_live c live⟩

/-- Each agent's step answers a next state. -/
theorem performEvent_next (e : AgentEvent) (s : State) : ∃ t, performEvent e s = .next t := by
  cases e with
  | core =>
    cases he : enabled s
    · exact ⟨_, coreStep_disabled he⟩
    · cases hd : decodeWord s.config.strict59 (fetchWord s) with
      | ok i =>
        obtain ⟨t, hx⟩ := exec_next i s
        exact ⟨t, ((coreStep_enabled he).trans (runInstruction_ok hd)).trans hx⟩
      | error e => exact ⟨_, (coreStep_enabled he).trans (runInstruction_error hd)⟩
  | tick =>
    cases he : enabled s
    · exact ⟨_, timerStep_disabled he⟩
    · exact ⟨_, timerStep_enabled he⟩
  | host c => exact ⟨_, rfl⟩

theorem turnTaken_withStack (stack : Vector Word 16) (s : State) :
    turnTaken (withStack stack s) = withStack stack (turnTaken s) := by
  cases ha : s.agenda <;> cases hs : s.schedule <;> simp [turnTaken, withStack, patched, ha, hs]

/-- Settles O51: the two states have the same turn and the same dead end, and each agent moves alike from
them. -/
theorem deadStackEntriesUnobservable : Obligations.DeadStackEntriesUnobservable := by
  unfold Obligations.DeadStackEntriesUnobservable
  intro s t h
  obtain ⟨stack, live, rfl⟩ := sameButDeadStack_iff.1 h
  have turn : turnNow (withStack stack s) = turnNow s := rfl
  have dead : deadEnd (withStack stack s) = deadEnd s := rfl
  cases hd : deadEnd s with
  | some r =>
    rw [step_deadEnd hd, step_deadEnd (dead.trans hd)]
    exact ⟨fun _ hs => (nomatch hs), fun _ hf => hf⟩
  | none =>
    rw [step_of_turn hd, step_of_turn (dead.trans hd), turn, turnTaken_withStack]
    refine ⟨fun s' hs => performEvent_of_live (by simpa [LiveEntriesAgree] using live) hs, fun f hf => ?_⟩
    obtain ⟨s', hs⟩ := performEvent_next (turnNow s) (turnTaken s)
    exact nomatch hs.symm.trans hf

/-! ### Who writes which part -/

/-- Settles O44: a latched machine's core and timer do nothing, and no call but load touches the latch. -/
theorem onlyLoadClearsLatch : Obligations.OnlyLoadClearsLatch := by
  unfold Obligations.OnlyLoadClearsLatch
  intro s t r hr h changed
  rcases step_inversion h with rfl | ⟨i, ⟨-, -, hl, -⟩, -⟩ | ⟨hl, -⟩ | ⟨⟨-, hl, -⟩, -⟩ | ⟨c, hc, rfl⟩
  · exact absurd ((turnTaken_latch s).trans hr) changed
  · exact nomatch hl.symm.trans hr
  · exact nomatch hl.symm.trans hr
  · exact nomatch hl.symm.trans hr
  · rcases takeCall_eq_or_load c (turnTaken s) with kept | ⟨image, rfl⟩
    · rw [kept] at changed
      exact absurd ((turnTaken_latch s).trans hr) changed
    · exact ⟨image, hc⟩

/-- Settles O46: the core's writers are CLS and DRW, the host's is load. -/
theorem displayWriters : Obligations.DisplayWriters := by
  unfold Obligations.DisplayWriters
  intro s t cx cy h changed
  have differs : t.display ≠ s.display := fun same => changed (by rw [same])
  rcases step_inversion h with rfl | ⟨i, hi, hx⟩ | ⟨-, -, rfl⟩ | ⟨-, rfl⟩ | ⟨c, hc, rfl⟩
  · exact absurd (turnTaken_display s) differs
  · rcases (exec_frame hx).display with kept | rfl | ⟨x, y, n, rfl⟩
    · exact absurd (kept.trans (turnTaken_display s)) differs
    · exact .inl hi
    · exact .inr (.inl ⟨x, y, n, hi⟩)
  · exact absurd (turnTaken_display s) differs
  · exact absurd (turnTaken_display s) differs
  · rcases takeCall_eq_or_load c (turnTaken s) with kept | ⟨image, rfl⟩
    · rw [kept] at differs
      exact absurd (turnTaken_display s) differs
    · exact .inr (.inr ⟨image, hc⟩)

/-- Settles O47: no instruction and no tick writes any of the three, and each call has its own effect. -/
theorem hostOwnsKeysAndRunState : Obligations.HostOwnsKeysAndRunState := by
  unfold Obligations.HostOwnsKeysAndRunState
  intro s t h
  rcases step_inversion h with rfl | ⟨i, -, hx⟩ | ⟨-, -, rfl⟩ | ⟨-, rfl⟩ | ⟨c, hc, rfl⟩
  · simp
  · simp [(exec_frame hx).keys, (exec_frame hx).run, (exec_frame hx).config]
  · simp
  · simp [tick_eq]
  · refine ⟨fun changed => ?_, fun changed => ?_, ?_⟩
    · rcases takeCall_keys c (turnTaken s) with kept | ⟨k, p, rfl⟩
      · exact absurd (kept.trans (turnTaken_keys s)) changed
      · exact ⟨k, p, hc⟩
    · rcases takeCall_run c (turnTaken s) with kept | rfl | rfl | rfl | ⟨image, rfl⟩
      · exact absurd (kept.trans (turnTaken_run s)) changed
      · exact .inl hc
      · exact .inr (.inl hc)
      · exact .inr (.inr (.inl hc))
      · exact .inr (.inr (.inr ⟨image, hc⟩))
    · exact (takeCall_config c _).trans (turnTaken_config s)

/-- Settles O48: the core's writers are LD DT,Vx and LD ST,Vx, the timer's is the tick, the host's load. -/
theorem timerWriters : Obligations.TimerWriters := by
  unfold Obligations.TimerWriters
  intro s t h
  rcases step_inversion h with rfl | ⟨i, hi, hx⟩ | ⟨-, -, rfl⟩ | ⟨ticks, rfl⟩ | ⟨c, hc, rfl⟩
  · simp
  · refine ⟨fun changed => ?_, fun changed => ?_⟩
    · rcases (exec_frame hx).dt with kept | ⟨x, rfl⟩
      · exact absurd (kept.trans (turnTaken_dt s)) changed
      · exact .inl ⟨x, hi⟩
    · rcases (exec_frame hx).st with kept | ⟨x, rfl⟩
      · exact absurd (kept.trans (turnTaken_st s)) changed
      · exact .inl ⟨x, hi⟩
  · simp
  · exact ⟨fun _ => .inr (.inl ticks), fun _ => .inr (.inl ticks)⟩
  · rcases takeCall_eq_or_load c (turnTaken s) with kept | ⟨image, rfl⟩
    · rw [kept]
      simp
    · exact ⟨fun _ => .inr (.inr ⟨image, hc⟩), fun _ => .inr (.inr ⟨image, hc⟩)⟩

/-! ### The state after construction (R38) -/

/-- Past the glyph table every byte is 0 after reset (R32, R290). -/
theorem resetByte_of_le {a : Nat} (h : 0x050 ≤ a) : resetByte a = 0 := by
  have size : glyphTable.length = 0x050 := rfl
  simp [resetByte, size, h]

/-- Settles O54, field by field. -/
theorem resetValues : Obligations.ResetValues := by
  unfold Obligations.ResetValues
  refine ⟨?_, rfl, rfl, rfl, ?_, rfl, rfl, cell_cleared, ?_, ?_, rfl, rfl, rfl⟩
  · intro r
    simp [readV, State.reset]
  · intro k hk
    simp [State.reset]
  · intro a lo hi
    have plain : readMem State.reset a = resetByte (a % memSize) := rfl
    rw [plain, Nat.mod_eq_of_lt hi, resetByte_of_le lo]
  · intro k hk
    simp [State.reset]

end Sys2Proof.Proofs
end

section
/-! PROOFS. The statements on memory (spec 20_memory.md): who changes a byte, and that a fetch sees what was
just stored. -/

namespace Sys2Proof.Proofs

open Sys2Proof.Machine Sys2Proof.Safety Sys2Proof.Laws

/-! ### Bytes stored at I -/

/-- Byte k of a run stored at I is read back at I + k, each address reduced by itself (R53, R56). -/
theorem readMem_storeAtI {s : State} {bs : List Byte} (size : bs.length ≤ memSize) {k b : Nat}
    (hk : k < bs.length) (hb : dataAddr s k % memSize = b % memSize) :
    readMem (storeAtI s bs) b = bs[k] :=
  (read_writeBytes s.mem (dataAddr s 0) bs size b).1 k hk hb

theorem length_firstRegs (s : State) (x : Nibble) : (firstRegs s x.toNat).length = x.toNat := by
  simpa [firstRegs] using x.isLt.le

/-- The register `r` below `x` is read back where a store of the registers below `x` puts it (R164). -/
theorem readMem_storeAtI_firstRegs {s : State} {x r : Nibble} (hr : r.toNat < x.toNat) {b : Nat}
    (hb : dataAddr s r.toNat % memSize = b % memSize) :
    readMem (storeAtI s (firstRegs s x.toNat)) b = readV s r := by
  have size := length_firstRegs s x
  have bound := x.isLt
  rw [readMem_storeAtI (by rw [size, memSize]; omega) (hr.trans_eq size.symm) hb]
  simp [firstRegs, readV]

/-- Settles O30: the next word's bytes lie at I and I + 1 mod 4096, where V0 and V1 were just stored; that
pc wraps at 2^16 does not matter, since 4096 divides it. -/
theorem storeSeenByNextFetch : Obligations.StoreSeenByNextFetch := by
  unfold Obligations.StoreSeenByNextFetch
  intro x s two next
  refine ⟨advance (storeAtI s (firstRegs s x.toNat)), rfl, ?_⟩
  have pc : (advance (storeAtI s (firstRegs s x.toNat))).pc.toNat % 4096 = dataAddr s 0 % 4096 := by
    simpa [storeAtI, BitVec.toNat_add] using next.symm
  have high := readMem_storeAtI_firstRegs (s := s) (r := 0x0) (Nat.lt_of_lt_of_le Nat.two_pos two) pc.symm
  have low := readMem_storeAtI_firstRegs (s := s) (r := 0x1) two (Nat.ModEq.add_right 1 pc.symm)
  rw [fetchWord, readMem_advance, readMem_advance, high, low]

/-! ### Who changes a byte -/

/-- Settles O45: the core's writers are LD B,Vx and LD [I],Vx, the host's is load. -/
theorem memoryWriters : Obligations.MemoryWriters := by
  unfold Obligations.MemoryWriters
  intro s t a h changed
  have differs : t.mem ≠ s.mem := fun same => changed (by rw [readMem, same, readMem])
  rcases step_inversion h with rfl | ⟨i, hi, hx⟩ | ⟨-, -, rfl⟩ | ⟨-, rfl⟩ | ⟨c, hc, rfl⟩
  · exact absurd (turnTaken_mem s) differs
  · rcases (exec_frame hx).mem with kept | ⟨⟨x, rfl⟩ | ⟨x, rfl⟩, -⟩
    · exact absurd (kept.trans (turnTaken_mem s)) differs
    · exact .inl ⟨x, hi⟩
    · exact .inr (.inl ⟨x, hi⟩)
  · exact absurd (turnTaken_mem s) differs
  · exact absurd (turnTaken_mem s) differs
  · rcases takeCall_eq_or_load c (turnTaken s) with kept | ⟨image, rfl⟩
    · rw [kept] at differs
      exact absurd (turnTaken_mem s) differs
    · exact .inr (.inr ⟨image, hc⟩)

end Sys2Proof.Proofs
end

section
/-! PROOFS. The statements on encoding (spec 30_encoding.md): the decoder and the encoder are inverse on the
well-formed instructions, the words left over are the Unknown ones, and the core's step is fetch, decode,
execute. -/

namespace Sys2Proof.Proofs

open Sys2Proof.Machine Sys2Proof.Safety Sys2Proof.Laws

/-! ### Decoding what was encoded -/

/-- The word of an instruction decodes to it exactly when the instruction is well-formed: the top nibble picks
the family, in families 8, E and F the low nibble or byte picks the instruction, and in families 5 and 9 the
low nibble is checked as well-formedness checks it (R75, R76, R80). -/
theorem decodeWord_encode_iff {strict : Bool} {i : Instr} :
    decodeWord strict (encode i) = .ok i ↔ i.wellFormed strict = true := by
  cases i
  case cls | ret => exact iff_of_true rfl rfl
  case seReg | sneReg => simp [decodeWord, decode59, encode, Instr.wellFormed]
  case ldReg | orReg | andReg | xorReg | addReg | sub | shr | subn | shl =>
    simp [decodeWord, decode8, encode, Instr.wellFormed]
  case skp | sknp => simp [decodeWord, decodeE, encode, Instr.wellFormed]
  case ldVxDT | ldVxK | ldDTVx | ldSTVx | addI | ldF | ldB | ldStore | ldLoad =>
    simp [decodeWord, decodeF, encode, Instr.wellFormed]
  all_goals simp [decodeWord, encode, Instr.wellFormed]

/-- Settles O2: the two bytes of the instruction's word are read back as that word, which decodes to it. -/
theorem decodeOfEncode : Obligations.DecodeOfEncode := by
  unfold Obligations.DecodeOfEncode
  intro strict i rest wf
  simp [encodeBytes, decodeBytes, decodeWord_encode_iff.2 wf]

/-- Settles O3: a word that decodes is its instruction's own word, which decodes to the instruction only if that
is well-formed. -/
theorem encodeOfDecode : Obligations.EncodeOfDecode := by
  unfold Obligations.EncodeOfDecode
  intro strict w i h
  have word : encode i = w := encode_of_decodeWord h
  exact ⟨word, decodeWord_encode_iff.1 (word ▸ h)⟩

/-! ### The Unknown words -/

/-- A word below 0x1000 has top nibble 0 (R72). -/
theorem opField_eq_zero_of_toNat_lt {w : Word} (h : w.toNat < 0x1000) : opField w = 0x0 := by
  apply BitVec.eq_of_toNat_eq
  rw [opField, toNat_field]
  exact congrArg (· % 16) (Nat.div_eq_of_lt h)

theorem decode0_unknown {w : Word} (h : w ≠ 0x00E0 ∧ w ≠ 0x00EE) : decode0 w = .error (.unknown w) :=
  (if_neg h.1).trans (if_neg h.2)

theorem decode59_unknown {w : Word} {i : Instr} (h : nField w ≠ 0) :
    decode59 true w i = .error (.unknown w) := by
  rw [decode59, if_neg (mt (lowNibbleOk_true _).1 h)]

theorem decode8_unknown {w : Word} (h : nField w ∈ [0x8, 0x9, 0xA, 0xB, 0xC, 0xD, 0xF]) :
    decode8 w = .error (.unknown w) := by
  unfold decode8
  split
  case h_10 => rfl
  all_goals simp_all

theorem decodeE_unknown {w : Word} (h : kkField w ∉ [0x9E, 0xA1]) : decodeE w = .error (.unknown w) := by
  unfold decodeE
  split
  case h_3 => rfl
  all_goals simp_all

theorem decodeF_unknown {w : Word}
    (h : kkField w ∉ [0x07, 0x0A, 0x15, 0x18, 0x1E, 0x29, 0x33, 0x55, 0x65]) :
    decodeF w = .error (.unknown w) := by
  unfold decodeF
  split
  case h_10 => rfl
  all_goals simp_all

/-- An Unknown word is refused as itself, family by family (R77, R80). -/
theorem decodeWord_of_unknown {strict : Bool} {w : Word} (h : Unknown strict w) :
    decodeWord strict w = .error (.unknown w) := by
  rcases h with ⟨hlt, hne⟩ | ⟨ho, hn⟩ | ⟨ho, hk⟩ | ⟨ho, hk⟩ | ⟨rfl, ho, hn⟩
  · simp [decodeWord, opField_eq_zero_of_toNat_lt hlt, decode0_unknown hne]
  · simp [decodeWord, ho, decode8_unknown hn]
  · simp [decodeWord, ho, decodeE_unknown hk]
  · simp [decodeWord, ho, decodeF_unknown hk]
  · rcases ho with ho | ho <;> simp [decodeWord, ho, decode59_unknown hn]

/-- Settles O4: an Unknown word is refused, and a refused word is Unknown; so a word that is not Unknown
decodes, the decoder being total. -/
theorem unknownWordsExactly : Obligations.UnknownWordsExactly := by
  unfold Obligations.UnknownWordsExactly
  intro strict w
  refine ⟨⟨unknown_of_decodeWord, decodeWord_of_unknown⟩, ?_, ?_⟩
  · rintro ⟨i, ok⟩ unknown
    cases ok.symm.trans (decodeWord_of_unknown unknown)
  · intro known
    cases decoded : decodeWord strict w with
    | ok i => exact ⟨i, rfl⟩
    | error e => exact absurd (unknown_of_decodeWord decoded) known

/-- Settles O1, by running the decoder on the ten words. -/
theorem tableWordsDecode : Obligations.TableWordsDecode := by
  unfold Obligations.TableWordsDecode
  decide

/-! ### The cycle -/

/-- An address is reduced by the read itself (R52). -/
theorem readMem_mod (s : State) (a : Nat) : readMem s (a % 4096) = readMem s a :=
  read_mod s.mem a

/-- Settles O5: the fetched word is its two bytes side by side, and each read reduces its own address. -/
theorem fetchIsBigEndianAndWraps : Obligations.FetchIsBigEndianAndWraps := by
  unfold Obligations.FetchIsBigEndianAndWraps
  intro s
  rw [readMem_mod, readMem_mod]
  exact toNat_append_eq _ _

/-- The step of the enabled core agent is the decoded instruction's (R73, R88, R271). -/
theorem step_of_coreRuns {s : State} {i : Instr} (h : CoreRuns s i) : step s = exec i (turnTaken s) := by
  obtain ⟨turn : turnNow s = .core, hrun, hlatch, hd⟩ := h
  have en : enabled (turnTaken s) = true := by simp [enabled, hrun, hlatch]
  calc step s = performEvent (turnNow s) (turnTaken s) := step_of_turn (deadEnd_of_latch hlatch)
    _ = coreStep (turnTaken s) := by rw [turn, performEvent]
    _ = runInstruction (turnTaken s) := coreStep_enabled en
    _ = exec i (turnTaken s) := runInstruction_ok (by simpa using hd)

/-- Settles O6: where the core moves alone there is no turn to use up. -/
theorem stepRunsDecodedInstruction : Obligations.StepRunsDecodedInstruction := by
  unfold Obligations.StepRunsDecodedInstruction
  intro s i turn hrun hlatch hd
  have runs : step s = exec i (turnTaken s) := step_of_coreRuns ⟨turn, hrun, hlatch, hd⟩
  refine ⟨runs, fun agenda schedule => ?_⟩
  rwa [(turn_coreAlone agenda schedule).2.1] at runs

end Sys2Proof.Proofs
end

section
/-! PROOFS. The statements on control flow (spec 40_control_flow.md): what each jump, skip, call and return
does to pc and the stack, that calls and returns nest, and that a self-jump stands still. -/

namespace Sys2Proof.Proofs

open Sys2Proof.Machine Sys2Proof.Safety Sys2Proof.Laws

/-! ### The instruction of a word -/

/-- The word of a well-formed instruction decodes to it. -/
theorem decodeWord_of_encode_eq {strict : Bool} {i : Instr} {w : Word} (wf : i.wellFormed strict = true)
    (word : encode i = w) : decodeWord strict w = .ok i :=
  word ▸ decodeWord_encode_iff.2 wf

/-! ### Where pc goes -/

theorem toNat_zextAddr (nnn : Addr) : (zextAddr nnn).toNat = nnn.toNat :=
  BitVec.toNat_setWidth_of_le (by decide)

/-- The largest sum, 0xFFF + 0xFF, fits 16 bits (R108). -/
theorem toNat_indexedTarget (s : State) (nnn : Addr) :
    (indexedTarget s nnn).toNat = nnn.toNat + (readV s 0).toNat := by
  have zext : (zextByte (readV s 0)).toNat = (readV s 0).toNat := BitVec.toNat_setWidth_of_le (by decide)
  rw [indexedTarget, BitVec.toNat_add, toNat_zextAddr, zext]
  omega

/-- A jump that completes lands on its target and writes pc alone (R85, R100). -/
theorem advance_jump (s : State) (t : Word) : advance (jump s t) = { s with pc := t } := by
  simp [advance, jump]

/-- An instruction that may skip writes pc alone (R85, R86). -/
theorem advance_skipIf (c : Bool) (s : State) :
    advance (skipIf c s) = { s with pc := if c then s.pc + 4 else s.pc + 2 } := by
  cases c
  · rfl
  · simp [advance, skipIf, skip, BitVec.add_assoc]

/-- Writing pc and the stack changes no other part. -/
theorem changesOnly_stack (s : State) (pc : Word) (sp : Fin 17) (stack : Vector Word 16) :
    ChangesOnly [.stack] s { s with pc := pc, sp := sp, stack := stack } := by
  intro p hp
  cases p
  case stack => simp at hp
  all_goals simp [PartKept, readV, readMem]

/-- Writing pc changes no other part. -/
theorem changesOnly_pc (s : State) (pc : Word) : ChangesOnly [] s { s with pc := pc } := by
  intro p _
  by_cases h : p = .stack
  · subst h
    exact ⟨rfl, rfl⟩
  · exact changesOnly_stack s pc s.sp s.stack p (by simpa using h)

/-! ### Jumps -/

theorem exec_jp (nnn : Addr) (s : State) : exec (.jp nnn) s = .next { s with pc := zextAddr nnn } :=
  congrArg _ (advance_jump s _)

theorem exec_jpV0 (nnn : Addr) (s : State) :
    exec (.jpV0 nnn) s = .next { s with pc := indexedTarget s nnn } :=
  congrArg _ (advance_jump s _)

/-- Settles O8, by what a completed jump writes. -/
theorem jumpSetsPc : Obligations.JumpSetsPc := by
  unfold Obligations.JumpSetsPc
  intro nnn s
  exact ⟨decodeWord_of_encode_eq rfl rfl, _, exec_jp nnn s, toNat_zextAddr nnn, changesOnly_pc s _⟩

/-- Settles O11, by what a completed jump writes and the sum's not overflowing. -/
theorem indexedJumpAddsV0 : Obligations.IndexedJumpAddsV0 := by
  unfold Obligations.IndexedJumpAddsV0
  intro nnn s
  exact ⟨decodeWord_of_encode_eq rfl rfl, _, exec_jpV0 nnn s, toNat_indexedTarget s nnn, changesOnly_pc s _⟩

/-- Settles O53: the core runs the jump, whose target is the pc it finds. -/
theorem selfJumpIsTheEnd : Obligations.SelfJumpIsTheEnd := by
  unfold Obligations.SelfJumpIsTheEnd
  rintro s turn hrun hlatch ⟨nnn, hd, self⟩
  have target : zextAddr nnn = (turnTaken s).pc := by
    rw [turnTaken_pc]
    exact BitVec.eq_of_toNat_eq ((toNat_zextAddr nnn).trans self)
  rw [step_of_coreRuns ⟨turn, hrun, hlatch, hd⟩, exec_jp, target]

/-! ### Skips -/

/-- A skip on equality, as SE has it (R104, R106). -/
theorem skipIf_beq (a b : Byte) (s : State) :
    (advance (skipIf (a == b) s)).pc = (if a = b then s.pc + 4 else s.pc + 2) ∧
    ChangesOnly [] s (advance (skipIf (a == b) s)) := by
  rw [advance_skipIf]
  exact ⟨by simp, changesOnly_pc s _⟩

/-- A skip on inequality, as SNE has it (R105, R107). -/
theorem skipIf_bne (a b : Byte) (s : State) :
    (advance (skipIf (a != b) s)).pc = (if a = b then s.pc + 2 else s.pc + 4) ∧
    ChangesOnly [] s (advance (skipIf (a != b) s)) := by
  rw [advance_skipIf]
  exact ⟨by by_cases h : a = b <;> simp [h], changesOnly_pc s _⟩

/-- Settles O12, by the skips on equality and inequality. -/
theorem immediateSkips : Obligations.ImmediateSkips := by
  unfold Obligations.ImmediateSkips
  intro x kk s
  exact ⟨decodeWord_of_encode_eq rfl rfl, decodeWord_of_encode_eq rfl rfl,
    ⟨_, rfl, skipIf_beq _ _ s⟩, ⟨_, rfl, skipIf_bne _ _ s⟩⟩

/-- The decoder admits a low nibble that is 0, and any without STRICT_5_9 (R80). -/
theorem lowNibbleOk_of {strict : Bool} {low : Nibble} (h : strict = false ∨ low = 0) :
    lowNibbleOk strict low = true := by
  rcases h with rfl | rfl <;> simp [lowNibbleOk]

/-- Settles O13, by the skips on equality and inequality; the low nibble matters to the decoder alone. -/
theorem registerSkips : Obligations.RegisterSkips := by
  unfold Obligations.RegisterSkips
  intro x y low s
  refine ⟨fun admitted => ?_, ⟨_, rfl, skipIf_beq _ _ s⟩, ⟨_, rfl, skipIf_bne _ _ s⟩⟩
  have ok := lowNibbleOk_of admitted
  exact ⟨decodeWord_of_encode_eq ok rfl, decodeWord_of_encode_eq ok rfl⟩

/-! ### CALL and RET -/

theorem exec_call_of_lt {nnn : Addr} {s : State} (h : s.sp.val < 16) :
    exec (.call nnn) s = .next { s with
      pc := zextAddr nnn, sp := ⟨s.sp.val + 1, by omega⟩, stack := s.stack.set s.sp.val s.pc h } := by
  rw [exec, execCall_push h, push_of_lt h, advance_jump]

theorem exec_ret_of_pos {s : State} (h : 0 < s.sp.val) :
    exec .ret s = .next { s with
      pc := s.stack[s.sp.val - 1]'(by omega) + 2, sp := ⟨s.sp.val - 1, by omega⟩ } := by
  rw [exec, execRet_pop h, topEntry_eq h, advance_jump, pop]

/-- Settles O9, by what CALL writes on either side of a full stack. -/
theorem callPushesOwnAddress : Obligations.CallPushesOwnAddress := by
  unfold Obligations.CallPushesOwnAddress
  intro nnn s
  refine ⟨decodeWord_of_encode_eq rfl rfl, fun room => ?_, execCall_full⟩
  refine ⟨_, exec_call_of_lt room, toNat_zextAddr nnn, rfl, fun k hk => ?_, changesOnly_stack s _ _ _⟩
  simp only [Vector.getElem_set, eq_comm]

/-- Settles O10, by what RET writes on either side of an empty stack. -/
theorem returnResumesAfterCall : Obligations.ReturnResumesAfterCall := by
  unfold Obligations.ReturnResumesAfterCall
  intro s
  refine ⟨decodeWord_of_encode_eq rfl rfl, fun k hk hsp => ?_, execRet_empty⟩
  have below : s.sp.val - 1 = k := by omega
  refine ⟨_, exec_ret_of_pos (by omega), ?_, below, rfl, changesOnly_stack s _ _ _⟩
  simp only [below]

/-! ### Calls and returns nest (R109) -/

theorem callAll_cons {site : Word} {nnn : Addr} {s t : State} (more : List (Word × Addr))
    (h : exec (.call nnn) { s with pc := site } = .next t) :
    callAll ((site, nnn) :: more) s = callAll more t := by
  rw [callAll, h]

theorem retAll_of_next {s t : State} (n : Nat) (h : exec .ret s = .next t) :
    retAll (n + 1) s = (retAll n t).map (fun r => (t.pc :: r.1, r.2)) := by
  rw [retAll, h]

/-- One RET more, after the others. -/
theorem retAll_snoc {n : Nat} {s u v : State} {pcs : List Word} (h : retAll n s = some (pcs, u))
    (last : exec .ret u = .next v) : retAll (n + 1) s = some (pcs ++ [v.pc], v) := by
  induction n generalizing s pcs with
  | zero =>
    cases h
    rw [retAll_of_next 0 last]
    rfl
  | succ n ih =>
    obtain ⟨t, ht⟩ := exec_next .ret s
    rw [retAll_of_next n ht, Option.map_eq_some_iff] at h
    obtain ⟨⟨rest, u'⟩, hr, hpcs⟩ := h
    cases hpcs
    rw [retAll_of_next (n + 1) ht, ih hr]
    rfl

/-- CALLs that find room and as many RETs: the RETs resume after the CALLs in reverse order and give back the
stack the CALLs found, its entries in use untouched. The first CALL and the last RET enclose the others. -/
theorem calls_then_returns (calls : List (Word × Addr)) (s : State) (room : s.sp.val + calls.length ≤ 16) :
    ∃ t u, callAll calls s = .next t ∧ t.sp.val = s.sp.val + calls.length ∧ t.latch = s.latch ∧
      retAll calls.length t = some ((calls.map (fun c => c.1 + 2)).reverse, u) ∧
      u.sp.val = s.sp.val ∧ u.latch = s.latch ∧ LiveEntriesAgree s u.stack := by
  induction calls generalizing s with
  | nil => exact ⟨s, s, rfl, rfl, rfl, rfl, rfl, rfl, fun _ _ _ => rfl⟩
  | cons call more ih =>
    obtain ⟨site, nnn⟩ := call
    rw [List.length_cons] at room ⊢
    have hlt : s.sp.val < 16 := by omega
    obtain ⟨-, pushes, -⟩ := callPushesOwnAddress nnn { s with pc := site }
    obtain ⟨s', called, -, pushed, entries, calledFrame⟩ := pushes hlt
    replace pushed : s'.sp.val = s.sp.val + 1 := pushed
    obtain ⟨t, u, hcalls, htsp, htl, hrets, husp, hul, live⟩ := ih s' (by omega)
    obtain ⟨-, pops, -⟩ := returnResumesAfterCall u
    obtain ⟨v, returned, hpc, hvsp, hvstack, returnedFrame⟩ := pops s.sp.val hlt (by omega)
    have resumed : v.pc = site + 2 := by
      rw [hpc, live s.sp.val hlt (by omega), entries s.sp.val hlt, if_pos rfl]
    have calledLatch : s'.latch = s.latch := calledFrame .latch (by decide)
    have returnedLatch : v.latch = u.latch := returnedFrame .latch (by decide)
    refine ⟨t, v, (callAll_cons more called).trans hcalls, by omega, htl.trans calledLatch, ?_, hvsp,
      returnedLatch.trans (hul.trans calledLatch), fun k hk below => ?_⟩
    · rw [retAll_snoc hrets returned, resumed, List.map_cons, List.reverse_cons]
    · simp only [hvstack]
      rw [live k hk (by omega), entries k hk, if_neg below.ne]

/-- Settles O14: the CALLs start from the empty stack, so 16 of them find room. -/
theorem stackRoundTrip : Obligations.StackRoundTrip := by
  unfold Obligations.StackRoundTrip
  intro calls s empty few
  obtain ⟨t, u, hcalls, htsp, htl, hrets, husp, hul, -⟩ := calls_then_returns calls s (by omega)
  exact ⟨t, u, hcalls, by omega, htl, hrets, husp.trans empty, hul⟩

end Sys2Proof.Proofs
end

section
/-! PROOFS. The statements on the register loads, the ALU family and RND (spec 41_register_alu.md): which
register an instruction writes, with what, and the order of the result and the flag. -/

namespace Sys2Proof.Proofs

open Sys2Proof.Machine Sys2Proof.Safety Sys2Proof.Laws

/-! ### What a completed register write changes -/

/-- Writing registers, the draw counter and pc changes no other part. -/
theorem changesOnly_registers_draws (s : State) (v : Vector Byte 16) (draws : Nat) (pc : Word) :
    ChangesOnly [.registers, .draws] s { s with v := v, draws := draws, pc := pc } := by
  intro p hp
  cases p
  case registers | draws => simp at hp
  all_goals simp [PartKept, readMem]

/-- Writing registers and the advance change no other part. -/
theorem changesOnly_setV (s : State) (v : Vector Byte 16) :
    ChangesOnly [.registers] s (advance (setV s v)) := by
  intro p hp
  by_cases h : p = .draws
  · subst h
    exact advance_draws _
  · exact changesOnly_registers_draws s v s.draws (s.pc + 2) p (by simpa [h] using hp)

/-- A write of one register leaves every other one (R20). -/
theorem regsKeptBut_writeV (s : State) (x : Nibble) (b : Byte) : RegsKeptBut [x] s (writeV s x b) := by
  intro r hr
  rw [readV_writeV, if_neg (Ne.symm (by simpa using hr))]

/-- An instruction that writes one register and completes. -/
theorem completed_writeV (s : State) (x : Nibble) (b : Byte) :
    readV (advance (writeV s x b)) x = b ∧ RegsKeptBut [x] s (advance (writeV s x b)) ∧
    (advance (writeV s x b)).pc = s.pc + 2 ∧ ChangesOnly [.registers] s (advance (writeV s x b)) :=
  ⟨by simp, regsKeptBut_writeV s x b, rfl, changesOnly_setV s _⟩

/-! ### Loads, copy, logic and RND -/

/-- Settles O15, by what a completed register write changes. -/
theorem loadImmediate : Obligations.LoadImmediate := by
  unfold Obligations.LoadImmediate
  intro x kk s
  exact ⟨decodeWord_of_encode_eq rfl rfl, _, rfl, completed_writeV s x kk⟩

/-- Settles O16, by what a completed register write changes; the sum of bytes is mod 256. -/
theorem addImmediateWrapsWithoutFlag : Obligations.AddImmediateWrapsWithoutFlag := by
  unfold Obligations.AddImmediateWrapsWithoutFlag
  intro x kk s
  obtain ⟨written, frame⟩ := completed_writeV s x (readV s x + kk)
  refine ⟨decodeWord_of_encode_eq rfl rfl, _, rfl, ?_, frame⟩
  rw [written, BitVec.toNat_add]

/-- Settles O17, by what a completed register write changes, for each of the four values written. -/
theorem copyAndLogicWriteNoFlag : Obligations.CopyAndLogicWriteNoFlag := by
  unfold Obligations.CopyAndLogicWriteNoFlag
  intro x y s
  refine ⟨?ld, ?or, ?and, ?xor⟩
  all_goals exact ⟨decodeWord_of_encode_eq rfl rfl, _, rfl, completed_writeV s x _⟩

/-- Settles O23: the register write is that of any load, and counting the draw touches no register. -/
theorem randomIsDrawAndMask : Obligations.RandomIsDrawAndMask := by
  unfold Obligations.RandomIsDrawAndMask
  intro x kk s
  obtain ⟨written, kept, -⟩ := completed_writeV s x (drawnByte s &&& kk)
  exact ⟨decodeWord_of_encode_eq rfl rfl, _, rfl, written, kept, rfl, rfl,
    changesOnly_registers_draws s _ _ _⟩

/-! ### The flag-writing operations (R130) -/

theorem toNat_ite_flag (f : Bool) : (if f then 1 else 0 : Byte).toNat = f.toNat := by
  cases f <;> rfl

/-- What an operand is once the flag has been written: VF reads as the flag, the others as before. -/
theorem toNat_readV_writeFlag (s : State) (f : Bool) (r : Nibble) :
    (readV (writeFlag s f) r).toNat = if r = 0xF then f.toNat else (readV s r).toNat := by
  rw [writeFlag_eq, readV_writeV, ← toNat_ite_flag, apply_ite BitVec.toNat]
  simp only [regF, eq_comm]

/-- The flag writer leaves every register but Vx and VF. -/
theorem regsKeptBut_aluFlag (op : Byte → Byte → AluOut) (x y : Nibble) (s : State) :
    RegsKeptBut [x, 0xF] s (aluFlag op x y s) := by
  intro r hr
  obtain ⟨notX, notF⟩ : r ≠ x ∧ r ≠ regF := by simpa [regF] using hr
  unfold aluFlag
  split <;> simp [writeFlag_eq, notX.symm, notF.symm]

section
variable {op : Byte → Byte → AluOut} {res : Nat → Nat → Nat} {flag : Nat → Nat → Bool}
  (hres : ∀ a b, (op a b).result.toNat = res a.toNat b.toNat)
  (hflag : ∀ a b, (op a b).flag = flag a.toNat b.toNat)
include hres hflag

/-- `alu_flag` follows the flag rule of the result and the flag its operation computes: under flag_last the
flag write comes last and decides VF, under flag_first the result write does and its operands are read after
the flag is written (R130). -/
theorem flagRule_aluFlag (x y : Nibble) (s : State) :
    FlagRule res flag x y s (aluFlag op x y s) := by
  refine ⟨regsKeptBut_aluFlag op x y s, ?_⟩
  unfold aluFlag
  cases s.config.vfOrder with
  | flagLast =>
    refine ⟨?_, fun hx => ?_⟩
    · simp only [toNat_readV_writeFlag, if_true, hflag]
    · simp only [toNat_readV_writeFlag, if_neg hx, readV_writeV, if_true, hres]
  | flagFirst =>
    refine ⟨fun hx => ?_, ?_⟩
    · simp only [readV_writeV, if_neg hx, toNat_readV_writeFlag, if_true, hflag]
    · simp only [readV_writeV, if_true, hres, toNat_readV_writeFlag, hflag]

/-- An instruction that is the flag writer and completes. -/
theorem completed_aluFlag (x y : Nibble) (s : State) :
    FlagRule res flag x y s (advance (aluFlag op x y s)) ∧
    (advance (aluFlag op x y s)).pc = s.pc + 2 ∧
    ChangesOnly [.registers] s (advance (aluFlag op x y s)) := by
  refine ⟨flagRule_aluFlag hres hflag x y s, ?_, ?_⟩
  · rw [aluFlag_eq_setV]
    rfl
  · rw [aluFlag_eq_setV]
    exact changesOnly_setV s _

end

/-! ### What the five operations compute (R137–R141) -/

theorem toNat_aluSub (a b : Byte) : (aluSub a b).result.toNat = (256 + a.toNat - b.toNat) % 256 := by
  rw [aluSub, BitVec.toNat_sub]
  omega

theorem toNat_shiftOperand (src : ShiftSource) (a b : Byte) :
    (shiftOperand src a b).toNat = if src = .x then a.toNat else b.toNat := by
  cases src <;> rfl

theorem toNat_aluShr (src : ShiftSource) (a b : Byte) :
    (aluShr src a b).result.toNat = (if src = .x then a.toNat else b.toNat) / 2 := by
  rw [← toNat_shiftOperand, aluShr, BitVec.toNat_ushiftRight, Nat.shiftRight_eq_div_pow, pow_one]

theorem toNat_aluShl (src : ShiftSource) (a b : Byte) :
    (aluShl src a b).result.toNat = (if src = .x then a.toNat else b.toNat) * 2 % 256 := by
  rw [← toNat_shiftOperand, aluShl, BitVec.toNat_shiftLeft, Nat.shiftLeft_eq, pow_one]

/-- Bit 0 of a byte as arithmetic. -/
theorem getLsbD_zero (b : Byte) : b.getLsbD 0 = decide (b.toNat % 2 = 1) := by
  rw [BitVec.getLsbD, Nat.testBit_zero]

/-- Bit 7 of a byte as arithmetic. -/
theorem getLsbD_seven (b : Byte) : b.getLsbD 7 = decide (b.toNat / 128 = 1) := by
  rw [BitVec.getLsbD, Nat.testBit_eq_decide_div_mod_eq, decide_eq_decide]
  omega

/-- Settles O18: `aluAdd` computes the sum mod 256 and the carry. -/
theorem addWritesCarry : Obligations.AddWritesCarry := by
  unfold Obligations.AddWritesCarry
  intro x y s
  exact ⟨decodeWord_of_encode_eq rfl rfl, _, rfl, completed_aluFlag BitVec.toNat_add (fun _ _ => rfl) x y s⟩

/-- Settles O19: `aluSub` computes the difference mod 256 and the strict comparison. -/
theorem subWritesStrictGreater : Obligations.SubWritesStrictGreater := by
  unfold Obligations.SubWritesStrictGreater
  intro x y s
  exact ⟨decodeWord_of_encode_eq rfl rfl, _, rfl, completed_aluFlag toNat_aluSub (fun _ _ => rfl) x y s⟩

/-- Settles O20: `aluSubn` is `aluSub` with its operands exchanged. -/
theorem subnWritesStrictGreater : Obligations.SubnWritesStrictGreater := by
  unfold Obligations.SubnWritesStrictGreater
  intro x y s
  exact ⟨decodeWord_of_encode_eq rfl rfl, _, rfl,
    completed_aluFlag (fun a b => toNat_aluSub b a) (fun _ _ => rfl) x y s⟩

/-- Settles O21: `aluShr` halves the operand that SHIFT_SOURCE selects and takes bit 0 of Vy. -/
theorem shiftRightFlagFromVy : Obligations.ShiftRightFlagFromVy := by
  unfold Obligations.ShiftRightFlagFromVy
  intro x y s
  exact ⟨decodeWord_of_encode_eq rfl rfl, _, rfl,
    completed_aluFlag (toNat_aluShr s.config.shiftSource) (fun _ b => getLsbD_zero b) x y s⟩

/-- Settles O22: `aluShl` doubles the operand that SHIFT_SOURCE selects and takes bit 7 of Vy. -/
theorem shiftLeftFlagFromVy : Obligations.ShiftLeftFlagFromVy := by
  unfold Obligations.ShiftLeftFlagFromVy
  intro x y s
  exact ⟨decodeWord_of_encode_eq rfl rfl, _, rfl,
    completed_aluFlag (toNat_aluShl s.config.shiftSource) (fun _ b => getLsbD_seven b) x y s⟩

end Sys2Proof.Proofs
end

section
/-! PROOFS. The statements on the index register and the memory transfers (spec 42_index_memory.md): what each
instruction writes, where its bytes lie, and that the upper 4 bits of I are not observable. -/

namespace Sys2Proof.Proofs

open Sys2Proof.Machine Sys2Proof.Safety Sys2Proof.Laws

/-! ### Addresses that agree mod 4096 (R52, R53, R56) -/

section
variable (m : Memory) {a b : Nat}

theorem read_congr (h : a ≡ b [MOD memSize]) : Memory.read m a = Memory.read m b :=
  congrArg (Memory.lookup m) h

theorem write_congr (h : a ≡ b [MOD memSize]) (v : Byte) : Memory.write m a v = Memory.write m b v := by
  have same : a % memSize = b % memSize := h
  rw [Memory.write, Memory.write, same]

theorem readBytes_congr (h : a ≡ b [MOD memSize]) (n : Nat) :
    Memory.readBytes m a n = Memory.readBytes m b n := by
  induction n generalizing a b with
  | zero => rfl
  | succ n ih => rw [Memory.readBytes, Memory.readBytes, read_congr m h, ih (h.add_right 1)]

theorem writeBytes_congr (h : a ≡ b [MOD memSize]) (bs : List Byte) :
    Memory.writeBytes m a bs = Memory.writeBytes m b bs := by
  induction bs generalizing m a b with
  | nil => rfl
  | cons v bs ih => rw [Memory.writeBytes, Memory.writeBytes, write_congr m h, ih _ (h.add_right 1)]

theorem loadRegs_congr (h : a ≡ b [MOD memSize]) (n : Nat) (v : Vector Byte 16) :
    loadRegs m a n v = loadRegs m b n v := by
  induction n with
  | zero => rfl
  | succ n ih => rw [loadRegs, loadRegs, ih, read_congr m (h.add_right n)]

end

/-! ### The upper 4 bits of I (R161) -/

section
variable {s : State} {w : Word} (agree : w.toNat ≡ s.i.toNat [MOD memSize])

theorem aluFlag_writeI (op : Byte → Byte → AluOut) (x y : Nibble) (s : State) (w : Word) :
    aluFlag op x y (writeI s w) = writeI (aluFlag op x y s) w := by
  simp only [aluFlag, writeI_config]
  cases s.config.vfOrder <;> rfl

theorem turnTaken_writeI (s : State) (w : Word) : turnTaken (writeI s w) = writeI (turnTaken s) w := by
  cases ha : s.agenda <;> cases hs : s.schedule <;> simp [turnTaken, writeI, ha, hs]

include agree

/-- The bytes at I are those at an index that agrees with it mod 4096. -/
theorem bytesAtI_writeI (n : Nat) : bytesAtI (writeI s w) n = bytesAtI s n := readBytes_congr s.mem agree n

/-- Bytes stored at an index that agrees with I mod 4096 lie where those stored at I do. -/
theorem storeAtI_writeI (bs : List Byte) : storeAtI (writeI s w) bs = writeI (storeAtI s bs) w :=
  congrArg (setMem (writeI s w)) (writeBytes_congr s.mem agree bs)

/-- The registers loaded from I on are those loaded from an index that agrees with it mod 4096. -/
theorem loadRegs_writeI (n : Nat) (v : Vector Byte 16) :
    loadRegs (writeI s w).mem (dataAddr (writeI s w) 0) n v = loadRegs s.mem (dataAddr s 0) n v :=
  loadRegs_congr s.mem agree n v

/-- The flag writer neither reads nor writes I (R130). -/
theorem sameButHighIndex_aluFlag (op : Byte → Byte → AluOut) (x y : Nibble) :
    SameButHighIndex (advance (aluFlag op x y s)) (advance (aluFlag op x y (writeI s w))) := by
  rw [aluFlag_writeI, aluFlag_eq_setV]
  exact ⟨rfl, agree⟩

/-- LD Vx,K looks at the keys and the mode alone (R225, R227). -/
theorem execLdVxK_writeI {x : Nibble} {t : State} (h : execLdVxK x s = .next t) :
    ∃ t', execLdVxK x (writeI s w) = .next t' ∧ SameButHighIndex t t' := by
  have pressed : pressedKey (writeI s w) = pressedKey s := rfl
  simp only [execLdVxK, keyWaitBlock, writeI_config, pressed] at h ⊢
  revert h
  cases s.config.keyWait with
  | stub => rintro ⟨⟩; exact ⟨_, rfl, rfl, agree⟩
  | block => cases pressedKey s <;> rintro ⟨⟩ <;> exact ⟨_, rfl, rfl, agree⟩

/-- An instruction runs alike from indices that agree mod 4096: it reads and writes memory at I through
reduced addresses, ADD I,Vx keeps the agreement since 4096 divides 2^16, and LD I,nnn and LD F,Vx overwrite
I. -/
theorem exec_writeI {i : Instr} {t : State} (h : exec i s = .next t) :
    ∃ t', exec i (writeI s w) = .next t' ∧ SameButHighIndex t t' := by
  cases i
  case ret =>
    rcases execRet_cases h with ⟨hsp, rfl⟩ | ⟨hsp, rfl⟩
    · exact ⟨_, execRet_empty (s := writeI s w) hsp, rfl, agree⟩
    · exact ⟨_, execRet_pop (s := writeI s w) hsp, rfl, agree⟩
  case call =>
    rcases execCall_cases h with ⟨hsp, rfl⟩ | ⟨hsp, -⟩
    · exact ⟨_, execCall_full (s := writeI s w) hsp, rfl, agree⟩
    · cases (exec_call_of_lt hsp).symm.trans h
      exact ⟨_, exec_call_of_lt (s := writeI s w) hsp, rfl, agree⟩
  case ldVxK => exact execLdVxK_writeI agree h
  case seImm | sneImm | seReg | sneReg | skp | sknp =>
    cases h
    refine ⟨_, rfl, ?_⟩
    rw [advance_skipIf, advance_skipIf]
    exact ⟨rfl, agree⟩
  case addReg | sub | shr | subn | shl =>
    cases h
    exact ⟨_, rfl, sameButHighIndex_aluFlag agree _ _ _⟩
  case ldI | ldF =>
    cases h
    exact ⟨_, rfl, rfl, rfl⟩
  case addI =>
    cases h
    refine ⟨_, rfl, rfl, ?_⟩
    have low : w.toNat % 4096 = s.i.toNat % 4096 := agree
    simp only [advance_i, writeI_i, BitVec.toNat_add, readV_writeI]
    omega
  case ldB | ldStore =>
    cases h
    exact ⟨_, congrArg complete (storeAtI_writeI agree _), rfl, agree⟩
  case ldLoad =>
    cases h
    rw [exec, execLdLoad, loadRegs_writeI agree]
    exact ⟨_, rfl, rfl, agree⟩
  case drw =>
    cases h
    rw [exec, execDrw, bytesAtI_writeI agree]
    exact ⟨_, rfl, rfl, agree⟩
  all_goals
    cases h
    exact ⟨_, rfl, rfl, agree⟩

/-- A call acts alike on indices that agree mod 4096: a load resets I, the others leave it. -/
theorem hostCall_writeI (c : HostCall) : SameButHighIndex (hostCall c s) (hostCall c (writeI s w)) := by
  rw [hostCall, hostCall, writeI_disposed]
  split
  · exact ⟨rfl, agree⟩
  · cases c with
    | load image => exact ⟨rfl, rfl⟩
    | start =>
      simp only [takeCall, startMachine, writeI_latch]
      split <;> exact ⟨rfl, agree⟩
    | _ => exact ⟨rfl, agree⟩

/-- Each agent moves alike from indices that agree mod 4096. -/
theorem performEvent_writeI {e : AgentEvent} {t : State} (h : performEvent e s = .next t) :
    ∃ t', performEvent e (writeI s w) = .next t' ∧ SameButHighIndex t t' := by
  cases e with
  | core =>
    rcases coreStep_cases h with ⟨off, rfl⟩ | ⟨on, i, hd, hx⟩ | ⟨on, ⟨e, he⟩, rfl⟩
    · exact ⟨_, coreStep_disabled (s := writeI t w) off, rfl, agree⟩
    · obtain ⟨t', hx', same⟩ := exec_writeI agree hx
      have run := (coreStep_enabled (s := writeI s w) on).trans (runInstruction_ok hd)
      exact ⟨t', run.trans hx', same⟩
    · have run := (coreStep_enabled (s := writeI s w) on).trans (runInstruction_error he)
      exact ⟨_, run, rfl, agree⟩
  | tick =>
    rcases timerStep_cases h with ⟨off, rfl⟩ | ⟨on, rfl⟩
    · exact ⟨_, timerStep_disabled (s := writeI t w) off, rfl, agree⟩
    · exact ⟨_, timerStep_enabled (s := writeI s w) on, rfl, agree⟩
  | host c =>
    cases h
    exact ⟨_, rfl, hostCall_writeI agree c⟩

end

/-- Settles O52: the two states have the same turn and the same dead end, and each agent moves alike from
them. -/
theorem highIndexBitsUnobservable : Obligations.HighIndexBitsUnobservable := by
  unfold Obligations.HighIndexBitsUnobservable
  rintro s t ⟨ht, agree⟩
  obtain ⟨w, rfl⟩ : ∃ w, t = writeI s w := ⟨t.i, ht⟩
  have dead : deadEnd (writeI s w) = deadEnd s := rfl
  cases hd : deadEnd s with
  | some r =>
    rw [step_deadEnd hd, step_deadEnd (dead.trans hd)]
    exact ⟨fun _ hs => (nomatch hs), fun _ hf => hf⟩
  | none =>
    have turn : turnNow (writeI s w) = turnNow s := rfl
    have agree' : w.toNat ≡ (turnTaken s).i.toNat [MOD memSize] := by rwa [turnTaken_i]
    rw [step_of_turn hd, step_of_turn (dead.trans hd), turn, turnTaken_writeI]
    refine ⟨fun _ hs => performEvent_writeI agree' hs, fun f hf => ?_⟩
    obtain ⟨s', hs⟩ := performEvent_next (turnNow s) (turnTaken s)
    exact nomatch hs.symm.trans hf

/-! ### Instructions that write I -/

/-- Writing I and the advance change no other part. -/
theorem changesOnly_writeI (s : State) (w : Word) : ChangesOnly [.index] s (advance (writeI s w)) := by
  intro p hp
  cases p
  case index => simp at hp
  all_goals simp [PartKept]

/-- Settles O24: a 12-bit immediate is zero-extended. -/
theorem setIndex : Obligations.SetIndex := by
  unfold Obligations.SetIndex
  intro nnn s
  exact ⟨decodeWord_of_encode_eq rfl rfl, _, rfl, toNat_zextAddr nnn, rfl, changesOnly_writeI s _⟩

/-- Settles O25: the sum of 16-bit values is mod 2^16. -/
theorem addIndexWrapsWithoutFlag : Obligations.AddIndexWrapsWithoutFlag := by
  unfold Obligations.AddIndexWrapsWithoutFlag
  intro x s
  refine ⟨decodeWord_of_encode_eq rfl rfl, _, rfl, ?_, rfl, changesOnly_writeI s _⟩
  have zext : (zextByte (readV s x)).toNat = (readV s x).toNat := BitVec.toNat_setWidth_of_le (by decide)
  rw [advance_i, writeI_i, BitVec.toNat_add, zext]

/-- The last glyph starts at 75, so the address fits 16 bits (R162). -/
theorem toNat_glyphAddr (b : Byte) : (glyphAddr b).toNat = b.toNat % 16 * 5 := by
  have low : (b &&& 0xF).toNat = b.toNat % 16 := Nat.and_two_pow_sub_one_eq_mod b.toNat 4
  rw [glyphAddr, low, BitVec.toNat_ofNat, glyphBase, glyphBytes]
  omega

/-- Settles O26, by where the glyph of a digit lies. -/
theorem glyphAddress : Obligations.GlyphAddress := by
  unfold Obligations.GlyphAddress
  intro x s
  exact ⟨decodeWord_of_encode_eq rfl rfl, _, rfl, toNat_glyphAddr _, rfl, changesOnly_writeI s _⟩

/-! ### Transfers between the registers and memory -/

/-- Writing memory and the advance change no other part. -/
theorem changesOnly_setMem (s : State) (m : Memory) : ChangesOnly [.memory] s (advance (setMem s m)) := by
  intro p hp
  cases p
  case memory => simp at hp
  all_goals simp [PartKept]

/-- An instruction that stores a run of `n` bytes at I and completes: every other byte, and every other part,
I too, is kept (R56, R85; D7). -/
theorem completed_storeAtI (s : State) (bs : List Byte) {n : Nat} (length : bs.length = n) (size : n ≤ memSize) :
    BytesKeptBut (dataAddr s 0) n s (advance (storeAtI s bs)) ∧
    (advance (storeAtI s bs)).pc = s.pc + 2 ∧ ChangesOnly [.memory] s (advance (storeAtI s bs)) := by
  subst length
  refine ⟨fun a outside => ?_, rfl, changesOnly_setMem s _⟩
  exact (read_writeBytes s.mem (dataAddr s 0) bs size a).2 fun k hk => (outside k hk).symm

/-- A digit of a byte fits a byte. -/
theorem toNat_digit (b : Byte) {d : Nat} (h : d ≤ b.toNat) : (BitVec.ofNat 8 d).toNat = d :=
  (BitVec.toNat_ofNat ..).trans (Nat.mod_eq_of_lt (h.trans_lt b.isLt))

/-- Settles O27: the digits are the three bytes of a run stored at I. -/
theorem storeBcdDigits : Obligations.StoreBcdDigits := by
  unfold Obligations.StoreBcdDigits
  intro x s
  have size : 3 ≤ memSize := by decide
  have digit {k : Nat} (hk : k < 3) :
      readMem (storeAtI s (bcdDigits (readV s x))) (dataAddr s k) = (bcdDigits (readV s x))[k] :=
    readMem_storeAtI (bs := bcdDigits _) size hk rfl
  refine ⟨decodeWord_of_encode_eq rfl rfl, _, rfl, ?_, ?_, ?_, completed_storeAtI s _ rfl size⟩
  · rw [readMem_advance, digit (by decide)]
    exact toNat_digit _ (Nat.div_le_self ..)
  · rw [readMem_advance, digit (by decide)]
    exact toNat_digit _ ((Nat.mod_le ..).trans (Nat.div_le_self ..))
  · rw [readMem_advance, digit (by decide)]
    exact toNat_digit _ (Nat.mod_le ..)

/-- Settles O28: the registers below x are a run of x bytes stored at I. -/
theorem storeRegistersExclusive : Obligations.StoreRegistersExclusive := by
  unfold Obligations.StoreRegistersExclusive
  intro x s
  have size : x.toNat ≤ memSize := x.isLt.le.trans (by decide)
  refine ⟨decodeWord_of_encode_eq rfl rfl, _, rfl, fun r hr => ?_,
    completed_storeAtI s _ (length_firstRegs s x) size⟩
  exact readMem_storeAtI_firstRegs hr rfl

/-- Settles O29: each register below x takes the byte at its own address, the others are not written. -/
theorem loadRegistersExclusive : Obligations.LoadRegistersExclusive := by
  unfold Obligations.LoadRegistersExclusive
  intro x s
  refine ⟨decodeWord_of_encode_eq rfl rfl, _, rfl, fun r => ?_, rfl, changesOnly_setV s _⟩
  exact getElem_loadRegs s.mem (dataAddr s 0) x.toNat s.v r.toNat r.isLt

end Sys2Proof.Proofs
end

section
/-! PROOFS. The statements on the display (spec 43_display.md): what clearing and drawing do to the cells, when
a drawing collides, and the glyphs after construction. -/

namespace Sys2Proof.Proofs

open Sys2Proof.Machine Sys2Proof.Safety Sys2Proof.Laws

/-! ### Where a sprite lands (R194, R195) -/

/-- A set bit of the sprite, drawn at (ox, oy), lands on the cell (x, y). -/
def SpriteLands (sprite : List Byte) (ox oy x y : Nat) : Prop :=
  ∃ r, ∃ h : r < sprite.length, ∃ c < 8, ColumnLands sprite[r] ox (oy + r) x y c

theorem not_spriteLands_nil (ox oy x y : Nat) : ¬ SpriteLands [] ox oy x y := by
  rintro ⟨r, h, -⟩
  exact absurd h (Nat.not_lt_zero r)

/-- A sprite lands where its first row does, or the rows below it. -/
theorem spriteLands_cons (b : Byte) (bs : List Byte) (ox oy x y : Nat) :
    SpriteLands (b :: bs) ox oy x y ↔
      (∃ c < 8, ColumnLands b ox oy x y c) ∨ SpriteLands bs ox (oy + 1) x y := by
  constructor
  · rintro ⟨r, h, c, hc, lands⟩
    cases r with
    | zero => exact .inl ⟨c, hc, lands⟩
    | succ r => exact .inr ⟨r, Nat.lt_of_succ_lt_succ h, c, hc, by rwa [Nat.add_right_comm]⟩
  · rintro (⟨c, hc, lands⟩ | ⟨r, h, c, hc, lands⟩)
    · exact ⟨0, Nat.succ_pos _, c, hc, lands⟩
    · exact ⟨r + 1, Nat.succ_lt_succ h, c, hc, by rwa [Nat.add_right_comm] at lands⟩

/-- Fewer rows than the grid has: no cell is landed on by the first row and by a later one. -/
theorem not_spriteLands_of_firstRow {b : Byte} {bs : List Byte} (size : (b :: bs).length ≤ 32) {ox oy x y : Nat}
    (first : ∃ c < 8, ColumnLands b ox oy x y c) : ¬ SpriteLands bs ox (oy + 1) x y := by
  obtain ⟨-, -, -, row, -⟩ := first
  rintro ⟨r, h, -, -, -, row', -⟩
  rw [List.length_cons] at size
  omega

theorem byte_ne_zero_iff (b : Byte) : b ≠ 0 ↔ ∃ c < 8, spriteBit b c = true := by
  constructor
  · intro nonzero
    by_contra! off
    refine nonzero (BitVec.eq_of_getLsbD_eq fun k hk => ?_)
    have bit : spriteBit b (7 - k) = b.getLsbD k := congrArg b.getLsbD (Nat.sub_sub_self (Nat.le_of_lt_succ hk))
    rw [← bit, Bool.eq_false_of_not_eq_true (off _ (by omega))]
    exact BitVec.getLsbD_zero.symm
  · rintro ⟨c, -, on⟩ rfl
    simp [spriteBit] at on

/-- A sprite lands somewhere exactly when it has a set bit. -/
theorem exists_spriteLands_iff (sprite : List Byte) (ox oy : Nat) :
    (∃ x y, SpriteLands sprite ox oy x y) ↔ ∃ b ∈ sprite, b ≠ 0 := by
  constructor
  · rintro ⟨x, y, r, h, c, hc, -, -, on⟩
    exact ⟨sprite[r], List.getElem_mem h, (byte_ne_zero_iff _).2 ⟨c, hc, on⟩⟩
  · rintro ⟨b, hb, nonzero⟩
    obtain ⟨r, h, rfl⟩ := List.getElem_of_mem hb
    obtain ⟨c, hc, on⟩ := (byte_ne_zero_iff _).1 nonzero
    exact ⟨ox + c, oy + r, r, h, c, hc, rfl, rfl, on⟩

/-! ### What a drawing does to the grid -/

theorem cell_congr (d : Display) {x y x' y' : Nat} (col : x % 64 = x' % 64) (row : y % 32 = y' % 32) :
    Display.cell d x y = Display.cell d x' y' := by
  rw [← cell_mod_col, ← cell_mod_row, col, row, cell_mod_row, cell_mod_col]

/-- The rows of a sprite invert a cell exactly when a set bit lands on it. -/
theorem cell_blitRows {sprite : List Byte} (size : sprite.length ≤ 32) (ox oy : Nat) (acc : Blit) (x y : Nat) :
    Display.cell (blitRows sprite ox oy acc).grid x y = true ↔
      ¬ (Display.cell acc.grid x y = true ↔ SpriteLands sprite ox oy x y) := by
  induction sprite generalizing oy acc with
  | nil => simp [blitRows, not_spriteLands_nil]
  | cons b bs ih =>
    rw [blitRows, ih (Nat.le_of_succ_le size), blitRow, cell_blitCols b ox oy 8 le_rfl, spriteLands_cons]
    by_cases first : ∃ c < 8, ColumnLands b ox oy x y c
    · simp [iff_true_intro first, not_spriteLands_of_firstRow size first]
    · simp [iff_false_intro first]

/-- The rows of a sprite collide when a set bit lands on a lit cell: no row lights a cell for a later one. -/
theorem collided_blitRows {sprite : List Byte} (size : sprite.length ≤ 32) (ox oy : Nat) (acc : Blit) :
    (blitRows sprite ox oy acc).collided = true ↔
      acc.collided = true ∨ ∃ x y, SpriteLands sprite ox oy x y ∧ Display.cell acc.grid x y = true := by
  induction sprite generalizing oy acc with
  | nil => simp [blitRows, not_spriteLands_nil]
  | cons b bs ih =>
    have later : (∃ x y, SpriteLands bs ox (oy + 1) x y ∧ Display.cell (blitRow b ox oy acc).grid x y = true) ↔
        ∃ x y, SpriteLands bs ox (oy + 1) x y ∧ Display.cell acc.grid x y = true := by
      refine exists₂_congr fun x y => and_congr_right fun lands => ?_
      have apart := mt (not_spriteLands_of_firstRow size) (not_not_intro lands)
      rw [blitRow, cell_blitCols b ox oy 8 le_rfl, iff_false_intro apart, iff_false, not_not]
    have first : (∃ c < 8, spriteBit b c = true ∧ Display.cell acc.grid (ox + c) oy = true) ↔
        ∃ x y, (∃ c < 8, ColumnLands b ox oy x y c) ∧ Display.cell acc.grid x y = true := by
      constructor
      · rintro ⟨c, hc, on, lit⟩
        exact ⟨ox + c, oy, ⟨c, hc, rfl, rfl, on⟩, lit⟩
      · rintro ⟨x, y, ⟨c, hc, col, row, on⟩, lit⟩
        exact ⟨c, hc, on, (cell_congr acc.grid col row).trans lit⟩
    rw [blitRows, ih (Nat.le_of_succ_le size), later, blitRow, collided_blitCols b ox oy 8 le_rfl, first]
    simp only [spriteLands_cons, or_and_right, exists_or, or_assoc]

section
variable {sprite : List Byte} (size : sprite.length ≤ 15) (d : Display) (ox oy : Nat)
include size

theorem cell_drawSprite (x y : Nat) :
    Display.cell (drawSprite d sprite ox oy).grid x y = true ↔
      ¬ (Display.cell d x y = true ↔ SpriteLands sprite ox oy x y) :=
  cell_blitRows (size.trans (by decide)) ox oy ⟨d, false⟩ x y

theorem collided_drawSprite :
    (drawSprite d sprite ox oy).collided = true ↔
      ∃ x y, SpriteLands sprite ox oy x y ∧ Display.cell d x y = true :=
  (collided_blitRows (size.trans (by decide)) ox oy ⟨d, false⟩).trans (by simp)

end

/-- Settles O33: a second drawing inverts the same cells again, and the first one on a blank grid lights exactly
the cells it lands on. -/
theorem drawTwiceRestores : Obligations.DrawTwiceRestores := by
  unfold Obligations.DrawTwiceRestores
  intro d sprite ox oy size
  refine ⟨display_ext fun x y _ _ => ?_, ?_, ?_⟩
  · rw [Bool.eq_iff_iff, cell_drawSprite size, cell_drawSprite size]
    tauto
  · rw [← Bool.not_eq_true, collided_drawSprite size]
    simp
  · rw [collided_drawSprite size, ← exists_spriteLands_iff sprite ox oy]
    simp [cell_drawSprite size]

/-! ### DRW and CLS -/

/-- The bytes at I, drawn at (Vx, Vy), land on the cells that DRW covers. -/
theorem spriteLands_bytesAtI (s : State) (x y n : Nibble) (cx cy : Nat) :
    SpriteLands (bytesAtI s n.toNat) (readV s x).toNat (readV s y).toNat cx cy ↔
      SpriteCovers s x y n (cx % 64) (cy % 32) := by
  simp [SpriteLands, SpriteCovers, ColumnLands, bytesAtI, readMem, dataAddr, spriteBit]

/-- The covered cells are cells of the grid. -/
theorem lt_of_spriteCovers {s : State} {x y n : Nibble} {cx cy : Nat} (h : SpriteCovers s x y n cx cy) :
    cx < 64 ∧ cy < 32 := by
  obtain ⟨r, c, -, -, rfl, rfl, -⟩ := h
  exact ⟨Nat.mod_lt _ (by decide), Nat.mod_lt _ (by decide)⟩

/-- What DRW Vx,Vy,n draws in state `s` (R191). -/
def drawing (s : State) (x y n : Nibble) : Blit :=
  drawSprite s.display (bytesAtI s n.toNat) (readV s x).toNat (readV s y).toNat

theorem exec_drw (x y n : Nibble) (s : State) :
    exec (.drw x y n) s = .next (advance (emitScreenUpdated
      (writeFlag (setDisplay s (drawing s x y n).grid) (drawing s x y n).collided))) := rfl

theorem length_bytesAtI_le (s : State) (n : Nibble) : (bytesAtI s n.toNat).length ≤ 15 := by
  rw [bytesAtI, length_readBytes]
  exact Nat.le_of_lt_succ n.isLt

/-- DRW inverts a cell exactly when it covers it. -/
theorem cell_drawing (s : State) (x y n : Nibble) {cx cy : Nat} (hx : cx < 64) (hy : cy < 32) :
    Display.cell (drawing s x y n).grid cx cy = true ↔
      ¬ (Display.cell s.display cx cy = true ↔ SpriteCovers s x y n cx cy) := by
  rw [drawing, cell_drawSprite (length_bytesAtI_le s n), spriteLands_bytesAtI, Nat.mod_eq_of_lt hx,
    Nat.mod_eq_of_lt hy]

/-- DRW collides exactly when it covers a lit cell. -/
theorem collided_drawing (s : State) (x y n : Nibble) :
    (drawing s x y n).collided = true ↔
      ∃ cx cy, SpriteCovers s x y n cx cy ∧ Display.cell s.display cx cy = true := by
  rw [drawing, collided_drawSprite (length_bytesAtI_le s n)]
  simp only [spriteLands_bytesAtI]
  constructor
  · rintro ⟨cx, cy, covers, lit⟩
    exact ⟨cx % 64, cy % 32, covers, by rwa [cell_mod_col, cell_mod_row]⟩
  · rintro ⟨cx, cy, covers, lit⟩
    obtain ⟨hx, hy⟩ := lt_of_spriteCovers covers
    exact ⟨cx, cy, by rwa [Nat.mod_eq_of_lt hx, Nat.mod_eq_of_lt hy], lit⟩

/-- Writing registers, the display, the events and pc changes no other part. -/
theorem changesOnly_registers_display_events (s : State) (v : Vector Byte 16) (d : Display)
    (events : List OutputEvent) (pc : Word) :
    ChangesOnly [.registers, .display, .events] s
      { s with v := v, display := d, events := events, pc := pc } := by
  intro p hp
  cases p
  case registers | display | events => simp at hp
  all_goals simp [PartKept, readMem]

/-- Settles O32: the cells and the collision are those of the drawing, and VF is written last. -/
theorem drawXorsSpriteAndReportsCollision : Obligations.DrawXorsSpriteAndReportsCollision := by
  unfold Obligations.DrawXorsSpriteAndReportsCollision
  intro x y n s
  refine ⟨decodeWord_of_encode_eq rfl rfl, _, exec_drw x y n s,
    fun cx cy hx hy => ⟨fun covers => ?_, fun outside => ?_⟩, fun hit => ?_, fun miss => ?_, ?_, rfl, rfl,
    changesOnly_registers_display_events s _ _ _ _⟩
  · refine Bool.eq_iff_iff.2 ((cell_drawing s x y n hx hy).trans ?_)
    simp [covers]
  · refine Bool.eq_iff_iff.2 ((cell_drawing s x y n hx hy).trans ?_)
    simp [outside]
  · simp [writeFlag_eq, regF, (collided_drawing s x y n).2 hit]
  · simp [writeFlag_eq, regF, mt (collided_drawing s x y n).1 miss]
  · exact regsKeptBut_writeV (setDisplay s _) _ _

/-- Settles O31: the cleared grid and the event are all that CLS writes beside pc. -/
theorem clearScreen : Obligations.ClearScreen := by
  unfold Obligations.ClearScreen
  intro s
  refine ⟨decodeWord_of_encode_eq rfl rfl, _, rfl, cell_cleared, rfl, rfl, fun p hp => ?_⟩
  by_cases h : p = .registers
  · subst h
    exact fun r => rfl
  · exact changesOnly_registers_display_events s s.v _ _ _ p (by simpa [h] using hp)

/-- Settles O55, by reading the 80 bytes. -/
theorem glyphTableAtReset : Obligations.GlyphTableAtReset := by
  unfold Obligations.GlyphTableAtReset
  decide

end Sys2Proof.Proofs
end

section
/-! PROOFS. The statements on the keys and the timers (spec 44_input_timers.md): what the key instructions see of
the keys, what the timer instructions and a tick write, and that ticks in a row run the timers down. -/

namespace Sys2Proof.Proofs

open Sys2Proof.Machine Sys2Proof.Safety Sys2Proof.Laws

/-! ### The lowest pressed key (R220, R221) -/

theorem pressedKey_of_lowestPressed {s : State} {k : Nat} (h : LowestPressed s k) :
    ∃ b : Byte, pressedKey s = some b ∧ b.toNat = k := by
  obtain ⟨hk, pressed, lowest⟩ := h
  have index : (BitVec.ofNat 8 k).toNat = k := Nat.mod_eq_of_lt (by omega)
  refine ⟨BitVec.ofNat 8 k, (pressedKey_eq_some_iff s _).2 ?_, index⟩
  simp only [index]
  exact ⟨hk, pressed, lowest⟩

/-- The key skips compare the full byte with the key's index (R222). -/
theorem matchesKey_iff_of_lowestPressed {s : State} {k : Nat} (h : LowestPressed s k) (x : Nibble) :
    matchesKey s x = true ↔ (readV s x).toNat = k := by
  obtain ⟨b, pressed, rfl⟩ := pressedKey_of_lowestPressed h
  simp only [matchesKey, lowestKey, pressed, beq_iff_eq, Option.some.injEq, BitVec.toNat_inj]
  exact eq_comm

/-- With no key pressed the key skips compare with NO_KEY, which may be no byte at all (R221). -/
theorem matchesKey_iff_of_noKeyPressed {s : State} (h : NoKeyPressed s) (x : Nibble) :
    matchesKey s x = true ↔ s.config.noKey = .byte (readV s x) := by
  simp only [matchesKey, lowestKey, (pressedKey_eq_none_iff s).2 h, noKeyValue, beq_iff_eq]
  cases s.config.noKey <;> simp

/-! ### The key instructions -/

/-- SKP skips where the comparison `p` holds, SKNP where it does not (R222, R223). -/
theorem keySkips {x : Nibble} {s : State} {p : Prop} [Decidable p] (h : matchesKey s x = true ↔ p) :
    (∃ t, exec (.skp x) s = .next t ∧ t.pc = (if p then s.pc + 4 else s.pc + 2) ∧ ChangesOnly [] s t) ∧
    (∃ t, exec (.sknp x) s = .next t ∧ t.pc = (if p then s.pc + 2 else s.pc + 4) ∧ ChangesOnly [] s t) := by
  refine ⟨⟨_, congrArg Host.Outcome.next (advance_skipIf _ s), ?_, changesOnly_pc s _⟩,
    ⟨_, congrArg Host.Outcome.next (advance_skipIf _ s), ?_, changesOnly_pc s _⟩⟩
  · simp only [h]
  · by_cases hp : p <;> simp [hp, h]

/-- Settles O34: what the skips compare with, where a key is pressed and where none is. -/
theorem keySkipsCompareLowestKey : Obligations.KeySkipsCompareLowestKey := by
  unfold Obligations.KeySkipsCompareLowestKey
  intro x s
  exact ⟨decodeWord_of_encode_eq rfl rfl, decodeWord_of_encode_eq rfl rfl,
    fun k lowest => keySkips (matchesKey_iff_of_lowestPressed lowest x),
    fun idle => keySkips (matchesKey_iff_of_noKeyPressed idle x)⟩

theorem exec_ldVxK_block {s : State} (mode : s.config.keyWait = .block) (x : Nibble) :
    exec (.ldVxK x) s = keyWaitBlock x s := by
  rw [exec, execLdVxK, mode]

theorem exec_ldVxK_stub {s : State} (mode : s.config.keyWait = .stub) (x : Nibble) :
    exec (.ldVxK x) s = keyWaitStub x s := by
  rw [exec, execLdVxK, mode]

theorem keyWaitBlock_pressed {s : State} {b : Byte} (h : pressedKey s = some b) (x : Nibble) :
    keyWaitBlock x s = complete (writeV s x b) := by
  rw [keyWaitBlock, h]

theorem keyWaitBlock_none {s : State} (h : pressedKey s = none) (x : Nibble) : keyWaitBlock x s = .next s := by
  rw [keyWaitBlock, h, hold]

/-- Settles O35: block mode writes the pressed key or holds, and the stub writes a draw as RND does. -/
theorem keyWaitBlocksOrDraws : Obligations.KeyWaitBlocksOrDraws := by
  unfold Obligations.KeyWaitBlocksOrDraws
  intro x s
  refine ⟨decodeWord_of_encode_eq rfl rfl, fun block k lowest => ?_, fun block idle => ?_, fun stub => ?_⟩
  · obtain ⟨b, pressed, index⟩ := pressedKey_of_lowestPressed lowest
    obtain ⟨written, frame⟩ := completed_writeV s x b
    exact ⟨_, (exec_ldVxK_block block x).trans (keyWaitBlock_pressed pressed x),
      (congrArg BitVec.toNat written).trans index, frame⟩
  · rw [exec_ldVxK_block block, keyWaitBlock_none ((pressedKey_eq_none_iff s).2 idle)]
  · obtain ⟨written, kept, -⟩ := completed_writeV s x (drawnByte s)
    exact ⟨_, exec_ldVxK_stub stub x, written, kept, rfl, rfl, changesOnly_registers_draws s _ _ _⟩

/-! ### The timers -/

/-- A frame is narrowed by the parts that turn out to be kept. -/
theorem changesOnly_narrow {parts fewer : List Part} {s t : State} (h : ChangesOnly parts s t)
    (kept : ∀ p ∈ parts, p ∉ fewer → PartKept p s t) : ChangesOnly fewer s t := by
  intro p hp
  by_cases mem : p ∈ parts
  · exact kept p mem hp
  · exact h p mem

/-- Writing the timers, the agenda and pc changes no other part. -/
theorem changesOnly_timers_agenda (s : State) (dt st : Byte) (agenda : List AgentEvent) (pc : Word) :
    ChangesOnly [.delayTimer, .soundTimer, .agenda] s
      { s with dt := dt, st := st, agenda := agenda, pc := pc } := by
  intro p hp
  cases p
  case delayTimer | soundTimer | agenda => simp at hp
  all_goals simp [PartKept, readV, readMem]

theorem changesOnly_writeDT (s : State) (b : Byte) : ChangesOnly [.delayTimer] s (advance (writeDT s b)) :=
  changesOnly_narrow (changesOnly_timers_agenda s b s.st s.agenda (s.pc + 2)) (by simp [PartKept])

theorem changesOnly_writeST (s : State) (b : Byte) : ChangesOnly [.soundTimer] s (advance (writeST s b)) :=
  changesOnly_narrow (changesOnly_timers_agenda s s.dt b s.agenda (s.pc + 2)) (by simp [PartKept])

theorem changesOnly_tick (s : State) : ChangesOnly [.delayTimer, .soundTimer] s (tick s) :=
  changesOnly_narrow (changesOnly_timers_agenda s (countDown s.dt) (countDown s.st) s.agenda s.pc)
    (by simp [PartKept, tick_eq])

/-- Sound is on exactly while ST is not 0 (R262). -/
theorem soundOn_iff (s : State) : soundOn s = true ↔ s.st ≠ 0 := bne_iff_ne

/-- Settles O36: the one read and the two writes of a timer. -/
theorem timerInstructions : Obligations.TimerInstructions := by
  unfold Obligations.TimerInstructions
  intro x s
  refine ⟨⟨decodeWord_of_encode_eq rfl rfl, ?read⟩, ⟨decodeWord_of_encode_eq rfl rfl, ?delay⟩,
    ⟨decodeWord_of_encode_eq rfl rfl, ?sound⟩⟩
  case read => exact ⟨_, rfl, completed_writeV s x s.dt⟩
  case delay => exact ⟨_, rfl, rfl, rfl, changesOnly_writeDT s _⟩
  case sound => exact ⟨_, rfl, rfl, rfl, soundOn_iff _, changesOnly_writeST s _⟩

/-! ### Ticks -/

/-- The step of the enabled timer agent is a tick (R272). -/
theorem step_of_timerTicks {s : State} (h : TimerTicks s) : step s = .next (tick (turnTaken s)) := by
  obtain ⟨hrun, hlatch, turn⟩ := h
  have en : enabled (turnTaken s) = true := by simp [enabled, hrun, hlatch]
  calc step s = performEvent (turnNow s) (turnTaken s) := step_of_turn (deadEnd_of_latch hlatch)
    _ = timerStep (turnTaken s) := by rw [turn, performEvent]
    _ = .next (tick (turnTaken s)) := timerStep_enabled en

/-- Settles O37: the step is a tick, and a timer at 0 has nothing to lose. -/
theorem tickCountsDown : Obligations.TickCountsDown := by
  unfold Obligations.TickCountsDown
  intro s ticks
  have counted : ∀ b : Byte, (countDown b).toNat = if b = 0 then 0 else b.toNat - 1 := by
    intro b
    rw [toNat_countDown]
    split
    case isTrue zero => rw [zero]; rfl
    case isFalse => rfl
  refine ⟨_, step_of_timerTicks ticks, ?_, ?_, turnTaken_pc s, changesOnly_tick _⟩
  · simp [tick_eq, counted]
  · simp [tick_eq, counted]

theorem toNat_iterate_countDown (n : Nat) (b : Byte) : (countDown^[n] b).toNat = b.toNat - n := by
  induction n with
  | zero => rfl
  | succ n ih => rw [Function.iterate_succ_apply', toNat_countDown, ih, Nat.sub_sub]

theorem run_succ {s t : State} (h : step s = .next t) (n : Nat) :
    Sys2Proof.core.run (n + 1) s = Sys2Proof.core.run n t := by
  have stepped : Sys2Proof.core.step s = .next t := h
  simp only [Host.Core.run, stepped]

/-- Listed ticks count each timer down once each, use up their turns, and leave the rest (R236). -/
theorem run_ticks (n : Nat) {rest : List AgentEvent} {s : State} (hrun : s.run = .running)
    (hlatch : s.latch = none) (listed : s.agenda = List.replicate n .tick ++ rest) :
    Sys2Proof.core.run n s =
      .next ({ s with st := countDown^[n] s.st, dt := countDown^[n] s.dt, agenda := rest } : State) := by
  induction n generalizing s with
  | zero =>
    obtain rfl : s.agenda = rest := listed
    rfl
  | succ n ih =>
    replace listed : s.agenda = .tick :: (List.replicate n .tick ++ rest) := listed
    obtain ⟨turn, taken, -⟩ := turn_cons listed
    have ticked := step_of_timerTicks ⟨hrun, hlatch, turn⟩
    rw [run_succ ticked n, taken]
    exact ih hrun hlatch rfl

/-- Settles O38: n counts down take n off, and never go below zero. -/
theorem timerDecay : Obligations.TimerDecay := by
  unfold Obligations.TimerDecay
  intro n rest s hrun hlatch listed
  exact ⟨_, run_ticks n hrun hlatch listed, toNat_iterate_countDown n s.st, toNat_iterate_countDown n s.dt,
    rfl, rfl, changesOnly_timers_agenda s _ _ rest s.pc⟩

end Sys2Proof.Proofs
end

section
/-! PROOFS. The statements on faults and the three agents (spec 60_exceptions.md): when the machine stops, what an
instruction that faults changes, what the turn of a disabled agent and each of the host's calls do, and what the
host reads. -/

namespace Sys2Proof.Proofs

open Sys2Proof.Machine Sys2Proof.Safety Sys2Proof.Laws

/-! ### Where the machine stops -/

/-- `deadEnd` gives a fault exactly at a dead end (R252). -/
theorem deadEnd_eq_none_iff {s : State} : deadEnd s = none ↔ ¬ AtDeadEnd s := by
  constructor
  · rintro alive ⟨agenda, schedule, latched⟩
    obtain ⟨-, -, dead⟩ := turn_coreAlone agenda schedule
    exact latched (dead.symm.trans alive)
  · intro elsewhere
    cases dead : deadEnd s with
    | none => rfl
    | some r =>
      obtain ⟨agenda, schedule, latched, -⟩ := deadEnd_some dead
      exact absurd ⟨agenda, schedule, by simp [latched]⟩ elsewhere

/-- A step is a fault at a dead end, and answers a next state everywhere else (R252, R270). -/
theorem step_fault_or_next (s : State) :
    (AtDeadEnd s ∧ ∃ f, step s = .fault f) ∨ (¬ AtDeadEnd s ∧ ∃ t, step s = .next t) := by
  by_cases stuck : AtDeadEnd s
  · have latched : deadEnd s ≠ none := mt deadEnd_eq_none_iff.1 (not_not_intro stuck)
    obtain ⟨r, dead⟩ := Option.ne_none_iff_exists'.1 latched
    exact .inl ⟨stuck, _, step_deadEnd dead⟩
  · obtain ⟨t, moved⟩ := performEvent_next (turnNow s) (turnTaken s)
    exact .inr ⟨stuck, t, (step_of_turn (deadEnd_eq_none_iff.2 stuck)).trans moved⟩

/-- The turn at the head of a free schedule is its agent's, which leaves the next free turn to come (R238). -/
theorem step_of_free {s : State} {k : Nat} (agenda : s.agenda = []) (schedule : s.schedule = .free k) :
    step s = performEvent (Config.turn k) { s with schedule := .free (k + 1) } := by
  obtain ⟨turn, taken, dead⟩ := turn_free agenda schedule
  rw [step_of_turn dead, turn, taken]

/-- Settles O41: every instruction and every agent's step answers a next state, so a step is a fault at a dead
end alone; and no agent's step touches the turns to come. -/
theorem onlyLatchedMachineStops : Obligations.OnlyLatchedMachineStops := by
  unfold Obligations.OnlyLatchedMachineStops
  refine ⟨exec_next, fun s r refused => ?refusal, fun s => ?fault, fun s k agenda schedule => ?free⟩
  case refusal =>
    rcases step_fault_or_next s with ⟨-, f, fault⟩ | ⟨-, t, next⟩
    · exact nomatch fault.symm.trans refused
    · exact nomatch next.symm.trans refused
  case fault =>
    rcases step_fault_or_next s with ⟨stuck, stops⟩ | ⟨alive, t, next⟩
    · exact iff_of_true stops stuck
    · exact iff_of_false (fun ⟨f, fault⟩ => nomatch next.symm.trans fault) alive
  case free =>
    have moves := step_of_free agenda schedule
    obtain ⟨t, moved⟩ := performEvent_next (Config.turn k) { s with schedule := .free (k + 1) }
    obtain ⟨agenda', schedule'⟩ := performEvent_turns moved
    exact ⟨moves, t, moves.trans moved, agenda'.trans agenda, schedule'⟩

/-! ### Taking a fault -/

/-- Settles O42: by an instruction's frame, only RET on an empty stack and CALL on a full one reach the latch,
and they write it alone. -/
theorem faultsArePrecise : Obligations.FaultsArePrecise := by
  unfold Obligations.FaultsArePrecise
  intro i s t h latched
  rcases (exec_frame h).latch with kept | ⟨rfl, empty, rfl⟩ | ⟨⟨nnn, rfl⟩, full, rfl⟩
  · exact absurd kept latched
  · exact ⟨rfl, .inl ⟨rfl, empty, rfl⟩⟩
  · exact ⟨rfl, .inr ⟨nnn, rfl, full, rfl⟩⟩

/-- The core's turn, off a dead end. -/
theorem step_of_coreNext {s : State} (turn : CoreNext s) (dead : deadEnd s = none) :
    step s = coreStep (turnTaken s) := by
  replace turn : turnNow s = .core := turn
  rw [step_of_turn dead, turn, performEvent]

/-- Settles O7: the decoder refuses the word, and the cycle then takes the decode fault. -/
theorem unknownWordTakesDecodeFault : Obligations.UnknownWordTakesDecodeFault := by
  unfold Obligations.UnknownWordTakesDecodeFault
  intro s turn hrun hlatch unknown
  have en : enabled (turnTaken s) = true := by simp [enabled, hrun, hlatch]
  have refused : decodeWord (turnTaken s).config.strict59 (fetchWord (turnTaken s))
      = .error (.unknown (fetchWord s)) := by simpa using decodeWord_of_unknown unknown
  calc step s = coreStep (turnTaken s) := step_of_coreNext turn (deadEnd_of_latch hlatch)
    _ = runInstruction (turnTaken s) := coreStep_enabled en
    _ = raiseFault .decode (fetchWord (turnTaken s)) (turnTaken s) := runInstruction_error refused
    _ = .next { turnTaken s with latch := some ⟨.decode, s.pc, fetchWord s⟩ } := by simp [raiseFault]

/-! ### Agents that are not enabled -/

/-- Stopped, or with a fault latched, neither the core nor the timer is enabled (R271, R272). -/
theorem enabled_eq_false {s : State} (h : s.run = .stopped ∨ s.latch ≠ none) : enabled s = false := by
  rw [← Bool.not_eq_true, enabled_iff]
  rintro ⟨running, unlatched⟩
  rcases h with stopped | latched
  · exact nomatch stopped.symm.trans running
  · exact latched unlatched

/-- Settles O43: the agent whose turn it is is not enabled, so it leaves the state whose turn is used up. -/
theorem disabledAgentsDoNothing : Obligations.DisabledAgentsDoNothing := by
  unfold Obligations.DisabledAgentsDoNothing
  intro s turn idle alive
  have dead : deadEnd s = none := deadEnd_eq_none_iff.2 alive
  have off : enabled (turnTaken s) = false := (enabled_turnTaken s).trans (enabled_eq_false idle)
  rcases turn with turn | turn
  · exact (step_of_coreNext turn dead).trans (coreStep_disabled off)
  · rw [step_of_turn dead, turn]
    exact timerStep_disabled off

/-! ### The host -/

/-- The host's turn is never at a dead end, and is its call (R270). -/
theorem step_of_host {s : State} {c : HostCall} (turn : turnNow s = .host c) :
    step s = .next (hostCall c (turnTaken s)) := by
  rw [step_of_not_core (by simp [turn]), turn, performEvent]

/-- A call that CORE takes (R270). -/
theorem step_of_hostCalls {s : State} {c : HostCall} (h : HostCalls s c) :
    step s = .next (takeCall c (turnTaken s)) := by
  obtain ⟨present, turn⟩ := h
  rw [step_of_host turn, hostCall, turnTaken_disposed, present]
  rfl

/-- start writes the run state alone, and not even that while a fault is latched (R259, R295). -/
theorem startMachine_eq (s : State) :
    startMachine s = { s with run := if s.latch = none then .running else s.run } := by
  unfold startMachine
  split
  case h_1 latch => rw [if_pos latch]
  case h_2 latch => rw [if_neg (by simp [latch])]

/-- setKey writes the key it names, to what it says (R273). -/
theorem setKey_keys (key : Fin 16) (p : Bool) (s : State) (k : Nat) (h : k < 16) :
    (setKey key p s).keys[k] = if k = key.val then p else s.keys[k] := by
  simp only [setKey, Vector.getElem_set, eq_comm]

/-- setKey writes the keys alone (R273). -/
theorem changesOnly_setKey (key : Fin 16) (p : Bool) (s : State) : ChangesOnly [.keys] s (setKey key p s) := by
  intro part kept
  cases part
  case keys => simp at kept
  all_goals simp [PartKept, setKey, readV, readMem]

/-- Settles O58: what each call that is taken writes, on the state whose turn is used up. -/
theorem lifecycleCalls : Obligations.LifecycleCalls := by
  unfold Obligations.LifecycleCalls
  intro s
  refine ⟨fun call => ?start, step_of_hostCalls, step_of_hostCalls, fun key p call => ?setKey,
    fun c disposed turn => ?disposed⟩
  case start => simpa [takeCall, startMachine_eq] using step_of_hostCalls call
  case setKey =>
    refine ⟨_, step_of_hostCalls call, fun k h => ?_, turnTaken_pc s, changesOnly_setKey key p _⟩
    simp only [takeCall, setKey_keys, turnTaken_keys]
  case disposed =>
    rw [step_of_host turn, hostCall, turnTaken_disposed, if_pos disposed]

/-- Settles O60: the outputs are fields of the state but for the sound, which is on while ST is not 0. -/
theorem hostReads : Obligations.HostReads := by
  unfold Obligations.HostReads
  exact ⟨fun s => ⟨fun _ _ => rfl, rfl, soundOn_iff s, rfl⟩, rfl, rfl, rfl⟩

end Sys2Proof.Proofs
end

section
/-! PROOFS. The statements on reset and load (spec 70_reset_and_hazards.md): the values each leaves, the parts it
keeps, and what a start without a program comes to. -/

namespace Sys2Proof.Proofs

open Sys2Proof.Machine Sys2Proof.Safety Sys2Proof.Laws

/-! ### The image in memory (R293, R294) -/

/-- Past the glyph table the memory of reset holds zeros (R290). -/
theorem readMem_reset_of_le {a : Nat} (lo : 0x050 ≤ a) (hi : a < memSize) : readMem State.reset a = 0 := by
  obtain ⟨-, -, -, -, -, -, -, -, zeroed, -⟩ := resetValues
  exact zeroed a lo hi

section
variable (image : List Byte) (s : State)

/-- Loading writes the bytes of the image that fit over the memory of reset (R293, R294). -/
theorem readMem_loadImage (a : Nat) :
    readMem (loadImage image s) a =
      Memory.read (Memory.writeBytes State.reset.mem programBase (image.take imageCapacity)) a := rfl

/-- What is loaded is not more than the program region holds (R294). -/
theorem length_loaded_le : (image.take imageCapacity).length ≤ memSize :=
  (List.length_take_le _ _).trans (Nat.sub_le _ _)

/-- The bytes below the program region are those of reset: the image is cut off before it would wrap (R294). -/
theorem readMem_loadImage_below {a : Nat} (h : a < programBase) :
    readMem (loadImage image s) a = readMem State.reset a := by
  refine (read_writeBytes _ _ _ (length_loaded_le image) a).2 fun k hk => ?_
  have fits : k < 4096 - 0x200 := hk.trans_le (List.length_take_le _ _)
  simp only [programBase, memSize] at h ⊢
  omega

/-- Byte k of the program region is byte k of the image, and what reset left there, 0, past its end (R293). -/
theorem readMem_loadImage_region {k : Nat} (h : programBase + k < memSize) :
    readMem (loadImage image s) (programBase + k) = image.getD k 0 := by
  have size := length_loaded_le image
  obtain ⟨written, kept⟩ := read_writeBytes State.reset.mem programBase _ size (programBase + k)
  rw [readMem_loadImage]
  rcases Nat.lt_or_ge k image.length with inside | past
  · have loaded : k < (image.take imageCapacity).length := by
      rw [List.length_take]
      exact Nat.lt_min.2 ⟨Nat.lt_sub_iff_add_lt'.2 h, inside⟩
    rw [written k loaded rfl, List.getElem_take, List.getD_eq_getElem _ _ inside]
  · have missed : ∀ j < (image.take imageCapacity).length,
        (programBase + j) % memSize ≠ (programBase + k) % memSize := by
      intro j hj
      have before : j < image.length := hj.trans_le (List.length_take_le' _ _)
      simp only [programBase, memSize] at h ⊢
      omega
    have zeroed : readMem State.reset (programBase + k) = 0 :=
      readMem_reset_of_le (Nat.le_add_right_of_le (by decide)) h
    rw [kept missed, ← readMem, zeroed, List.getD_eq_default _ _ past]

/-- load keeps the keys, the events, the turns to come and the model's own parts (R290, R293; D19). -/
theorem changesOnly_loadImage :
    ChangesOnly [.registers, .index, .stack, .delayTimer, .soundTimer, .memory, .display, .latch, .runState]
      s (loadImage image s) := by
  intro p hp
  cases p
  case events | keys | disposed | config | draws | agenda | schedule => rfl
  all_goals simp at hp

end

/-- Settles O57: the call is taken, so the step loads; what reset writes has the values of construction, and the
image lies over the memory of reset. -/
theorem loadResetsAndCopiesImage : Obligations.LoadResetsAndCopiesImage := by
  unfold Obligations.LoadResetsAndCopiesImage
  intro image s call
  obtain ⟨registers, pc, index, sp, stack, dt, st, display, -⟩ := resetValues
  exact ⟨_, step_of_hostCalls call, rfl, rfl, pc, index, sp, stack, registers, dt, st, display,
    fun a => readMem_loadImage_below image _, fun k => readMem_loadImage_region image _,
    changesOnly_loadImage image _⟩

/-! ### Reset and the state after construction -/

/-- Settles O40: memory is canonical, CORE is not disposed, the parameters are the defaults and no fault is
latched. -/
theorem resetMeetsInv : Obligations.ResetMeetsInv where
  memory := wf_reset
  disposed := fun disposed => nomatch disposed
  config := trivial
  latch := latchExplained_of_none rfl

/-- Settles O56: reset writes constants, those of construction, and not the keys, the run state or the events. -/
theorem resetIsIdempotent : Obligations.ResetIsIdempotent := by
  unfold Obligations.ResetIsIdempotent
  intro s
  obtain ⟨registers, pc, -⟩ := resetValues
  exact ⟨rfl, rfl, rfl, rfl, registers, pc, fun _ => rfl⟩

/-! ### Starting without a program (R300) -/

/-- After construction the word at pc is 0x0000: the program region holds zeros (R290). -/
theorem fetchWord_reset : fetchWord State.reset = 0x0000 := by
  rw [fetchWord, readMem_reset_of_le (by decide) (by decide), readMem_reset_of_le (by decide) (by decide)]
  rfl

/-- The word 0x0000 is Unknown (R79, D2). -/
theorem unknown_zero (strict : Bool) : Unknown strict 0x0000 := .inl (by decide)

/-- The state after construction, started by the host, with the core's turn next. -/
def startedUnloaded : State := { State.reset with run := .running, agenda := [.core] }

/-- The first step is the host's start (R295). -/
theorem step_start_reset :
    step { State.reset with agenda := [.host .start, .core] } = .next startedUnloaded :=
  step_of_hostCalls (c := .start) ⟨rfl, rfl⟩

/-- The second step is the core's, which meets an Unknown word at 0x200 (R255). -/
theorem step_startedUnloaded :
    step startedUnloaded = .next { State.reset with run := .running, latch := some ⟨.decode, 0x200, 0x0000⟩ } := by
  have fetched : fetchWord startedUnloaded = 0x0000 := (fetchWord_congr rfl rfl).trans fetchWord_reset
  have unknown : Unknown startedUnloaded.config.strict59 (fetchWord startedUnloaded) :=
    fetched ▸ unknown_zero _
  rw [unknownWordTakesDecodeFault startedUnloaded rfl rfl rfl unknown, fetched]
  rfl

/-- Settles O59: start sets Running, and the core's cycle then takes the decode fault. -/
theorem startWithoutProgramFaults : Obligations.StartWithoutProgramFaults := by
  unfold Obligations.StartWithoutProgramFaults
  exact (run_succ step_start_reset 1).trans (run_succ step_startedUnloaded 0)

end Sys2Proof.Proofs
end
